-- ==== Sys2Proof/Word.lean ====
section
/-! DEFINITION. The fixed widths of BANDCODEC's data: bytes, u16 values (pixels, header fields) and 32-bit command words
and registers (00_scope R8). -/

namespace Sys2Proof

/-- A byte of a datagram, of a payload or of an output buffer (u8). -/
abbrev Byte := BitVec 8

/-- A u16: a full-depth pixel, `frame_id`, `y_start` (00_scope R8). -/
abbrev Half := BitVec 16

/-- A 32-bit command word (30_encoding R74) or a 32-bit register (10_state R42). -/
abbrev Word := BitVec 32

end Sys2Proof
end

