-- ==== Sys2Proof/Syntax.lean ====
section
/-! DEFINITION. The command ports and the twenty-two commands (30_encoding R74 to R83): one constructor per row of
spec/opcode_table.json. Every operand has exactly the width of its field, so every term of `Instr` can be encoded. -/

namespace Sys2Proof

/-- The three command ports (00_scope R3). -/
inductive Port where
  | producer
  | consumer
  | host
  deriving DecidableEq, Repr

/-- The commands (30_encoding R83). Operands are named as the formats of R75 to R82 name them. -/
inductive Instr where
  /-- HDR_DECODE, format FH: the five header bytes (R78, R93). -/
  | hdrDecode (b0 b1 b2 b3 b4 : BitVec 8)
  /-- HDR_ENCODE, format FE: the five header fields (R79, R95). -/
  | hdrEncode (fid : BitVec 16) (y : BitVec 16) (res : BitVec 2) (cm : BitVec 2) (lc : BitVec 4)
  /-- HDR_CHECK_LEN, format FL (R80, R96). -/
  | hdrCheckLen (flags : BitVec 8) (avail : BitVec 16)
  /-- RX_POLL (R98). -/
  | rxPoll
  /-- PXC_EXPAND, format FI with an 8-bit sample (R77, R105). -/
  | pxcExpand (sample : BitVec 8)
  /-- PXC_LOOKUP, format FI with an 8-bit sample (R77, R106). -/
  | pxcLookup (sample : BitVec 8)
  /-- SCL_HMAP, format FI with a 16-bit index (R77, R118). -/
  | sclHmap (index : BitVec 16)
  /-- SCL_VMAP, format FI with a 16-bit index (R77, R119). -/
  | sclVmap (index : BitVec 16)
  /-- SCL_GEOM, format FG (R81, R114). -/
  | sclGeom (res : BitVec 2) (lc : BitVec 4) (y : BitVec 16)
  /-- SCL_BAND, format FS (R76, R120). -/
  | sclBand (slot : BitVec 8)
  /-- POOL_ACQUIRE (R123). -/
  | poolAcquire
  /-- POOL_FILL, format FS (R76, R124). -/
  | poolFill (slot : BitVec 8)
  /-- POOL_COMMIT, format FS (R76, R125). -/
  | poolCommit (slot : BitVec 8)
  /-- POOL_ABORT, format FS (R76, R126). -/
  | poolAbort (slot : BitVec 8)
  /-- POOL_SELECT (R130). -/
  | poolSelect
  /-- POOL_RELEASE, format FS (R76, R131). -/
  | poolRelease (slot : BitVec 8)
  /-- XFA_WAIT (R137). -/
  | xfaWait
  /-- XFA_PUSH, format FP: row count and first panel row (R82, R136). -/
  | xfaPush (h : BitVec 8) (y : BitVec 16)
  /-- XFA_DRAIN, format FS (R76, R140). -/
  | xfaDrain (slot : BitVec 8)
  /-- CSR_READ, format FI with a 12-bit address (R77, R149). -/
  | csrRead (addr : BitVec 12)
  /-- SEQ_INGEST (R145). -/
  | seqIngest
  /-- SEQ_CONSUME (R147). -/
  | seqConsume
  deriving DecidableEq, Repr

end Sys2Proof
end

