-- ==== Sys2Proof/Decode.lean ====
section
/-! DEFINITION. The command words (30_encoding R74 to R84): the decoder, total on any list of words and rejecting by
name, and the encoder, each written from the formats of the spec. -/

namespace Sys2Proof

/-- Why a list of words is no command. `reservedOpcode` and `mustBeZero` are the two grounds of `F_ILLEGAL_CMD` (R84);
`noWord` and `missingWord` say that the transaction of R74 has not been delivered whole (log entry 15). -/
inductive Reject where
  | noWord
  | missingWord
  | reservedOpcode (op : BitVec 8)
  | mustBeZero (op : BitVec 8)
  deriving DecidableEq, Repr

/-- `W0[31:24]` (R74). -/
def opcodeOf (w0 : Word) : BitVec 8 := w0.extractLsb' 24 8

/-- How many words the command has: "the opcode alone fixes the command's length" (R74); a word with a reserved opcode is
one word long (60_exceptions R160). -/
def commandLength (w0 : Word) : Nat :=
  if opcodeOf w0 = 0x10#8 ∨ opcodeOf w0 = 0x11#8 then 2 else 1

/-- `i` if the must-be-zero field of the command holds 0 (R84). -/
def whenZero {n : Nat} (w0 : Word) (mbz : BitVec n) (i : Instr) : Except Reject Instr :=
  if mbz = 0#n then .ok i else .error (.mustBeZero (opcodeOf w0))

/-- Format F0 (R75). -/
def decodeF0 (w0 : Word) (i : Instr) : Except Reject Instr :=
  whenZero w0 (w0.extractLsb' 0 24) i

/-- Format FS (R76). -/
def decodeFS (w0 : Word) (mk : BitVec 8 → Instr) : Except Reject Instr :=
  whenZero w0 (w0.extractLsb' 0 16) (mk (w0.extractLsb' 16 8))

/-- Format FI with a sample in `I[7:0]` (R77). -/
def decodeSample (w0 : Word) (mk : BitVec 8 → Instr) : Except Reject Instr :=
  whenZero w0 (w0.extractLsb' 8 16) (mk (w0.extractLsb' 0 8))

/-- Format FI with a map index (R77). -/
def decodeIndex (w0 : Word) (mk : BitVec 16 → Instr) : Except Reject Instr :=
  whenZero w0 (w0.extractLsb' 16 8) (mk (w0.extractLsb' 0 16))

/-- The one-word commands (R83). -/
def decodeOne (w0 : Word) : Except Reject Instr :=
  match (opcodeOf w0).toNat with
  | 0x12 => .ok (.hdrCheckLen (w0.extractLsb' 16 8) (w0.extractLsb' 0 16))
  | 0x13 => decodeF0 w0 .rxPoll
  | 0x20 => decodeSample w0 .pxcExpand
  | 0x21 => decodeSample w0 .pxcLookup
  | 0x30 => decodeIndex w0 .sclHmap
  | 0x31 => decodeIndex w0 .sclVmap
  | 0x32 => whenZero w0 (w0.extractLsb' 20 2)
      (.sclGeom (w0.extractLsb' 22 2) (w0.extractLsb' 16 4) (w0.extractLsb' 0 16))
  | 0x33 => decodeFS w0 .sclBand
  | 0x40 => decodeF0 w0 .poolAcquire
  | 0x41 => decodeFS w0 .poolFill
  | 0x42 => decodeFS w0 .poolCommit
  | 0x43 => decodeFS w0 .poolAbort
  | 0x44 => decodeF0 w0 .poolSelect
  | 0x45 => decodeFS w0 .poolRelease
  | 0x50 => decodeF0 w0 .xfaWait
  | 0x51 => .ok (.xfaPush (w0.extractLsb' 16 8) (w0.extractLsb' 0 16))
  | 0x52 => decodeFS w0 .xfaDrain
  | 0x60 => whenZero w0 (w0.extractLsb' 12 12) (.csrRead (w0.extractLsb' 0 12))
  | 0x70 => decodeF0 w0 .seqIngest
  | 0x71 => decodeF0 w0 .seqConsume
  | _ => .error (.reservedOpcode (opcodeOf w0))

/-- The two-word commands: FH (R78) and FE (R79), `W1[31:16]` zero. -/
def decodeTwo (w0 w1 : Word) : Except Reject Instr :=
  whenZero w0 (w1.extractLsb' 16 16)
    (if opcodeOf w0 = 0x10#8 then
      .hdrDecode (w1.extractLsb' 8 8) (w1.extractLsb' 0 8) (w0.extractLsb' 8 8) (w0.extractLsb' 0 8) (w0.extractLsb' 16 8)
    else
      .hdrEncode (w1.extractLsb' 0 16) (w0.extractLsb' 0 16) (w0.extractLsb' 22 2) (w0.extractLsb' 20 2)
        (w0.extractLsb' 16 4))

/-- The command at the head of a list of words, and the words after it. -/
def decode : List Word → Except Reject (Instr × List Word)
  | [] => .error .noWord
  | w0 :: rest =>
    if commandLength w0 = 2 then
      match rest with
      | [] => .error .missingWord
      | w1 :: rest => (decodeTwo w0 w1).map (·, rest)
    else (decodeOne w0).map (·, rest)

/-- The opcode of each command (R83). -/
def Instr.opcode : Instr → BitVec 8
  | .hdrDecode .. => 0x10#8
  | .hdrEncode .. => 0x11#8
  | .hdrCheckLen .. => 0x12#8
  | .rxPoll => 0x13#8
  | .pxcExpand _ => 0x20#8
  | .pxcLookup _ => 0x21#8
  | .sclHmap _ => 0x30#8
  | .sclVmap _ => 0x31#8
  | .sclGeom .. => 0x32#8
  | .sclBand _ => 0x33#8
  | .poolAcquire => 0x40#8
  | .poolFill _ => 0x41#8
  | .poolCommit _ => 0x42#8
  | .poolAbort _ => 0x43#8
  | .poolSelect => 0x44#8
  | .poolRelease _ => 0x45#8
  | .xfaWait => 0x50#8
  | .xfaPush .. => 0x51#8
  | .xfaDrain _ => 0x52#8
  | .csrRead _ => 0x60#8
  | .seqIngest => 0x70#8
  | .seqConsume => 0x71#8

/-- Format F0 (R75). -/
def encodeF0 (op : BitVec 8) : List Word := [op ++ 0#24]

/-- Format FS (R76). -/
def encodeFS (op slot : BitVec 8) : List Word := [op ++ slot ++ 0#16]

/-- Format FI with a sample (R77). -/
def encodeSample (op sample : BitVec 8) : List Word := [op ++ 0#16 ++ sample]

/-- Format FI with a map index (R77). -/
def encodeIndex (op : BitVec 8) (index : BitVec 16) : List Word := [op ++ 0#8 ++ index]

/-- The words of a command (R75 to R83). -/
def encode (i : Instr) : List Word :=
  match i with
  | .hdrDecode b0 b1 b2 b3 b4 => [0x10#8 ++ b4 ++ b2 ++ b3, 0#16 ++ b0 ++ b1]
  | .hdrEncode fid y res cm lc => [0x11#8 ++ res ++ cm ++ lc ++ y, 0#16 ++ fid]
  | .hdrCheckLen flags avail => [0x12#8 ++ flags ++ avail]
  | .rxPoll => encodeF0 0x13#8
  | .pxcExpand s => encodeSample 0x20#8 s
  | .pxcLookup s => encodeSample 0x21#8 s
  | .sclHmap n => encodeIndex 0x30#8 n
  | .sclVmap n => encodeIndex 0x31#8 n
  | .sclGeom res lc y => [0x32#8 ++ res ++ 0#2 ++ lc ++ y]
  | .sclBand s => encodeFS 0x33#8 s
  | .poolAcquire => encodeF0 0x40#8
  | .poolFill s => encodeFS 0x41#8 s
  | .poolCommit s => encodeFS 0x42#8 s
  | .poolAbort s => encodeFS 0x43#8 s
  | .poolSelect => encodeF0 0x44#8
  | .poolRelease s => encodeFS 0x45#8 s
  | .xfaWait => encodeF0 0x50#8
  | .xfaPush h y => [0x51#8 ++ h ++ y]
  | .xfaDrain s => encodeFS 0x52#8 s
  | .csrRead a => [0x60#8 ++ 0#12 ++ a]
  | .seqIngest => encodeF0 0x70#8
  | .seqConsume => encodeF0 0x71#8

/-- The words of the instruction whose bits are `w`, first word in the low 32 bits, as many as its opcode asks for
(every bit from `nbits` on is 0). -/
def wordsOf (nbits w : Nat) : List Word :=
  let bits := w % 2 ^ nbits
  let w0 := BitVec.ofNat 32 bits
  if commandLength w0 = 2 then [w0, BitVec.ofNat 32 (bits / 2 ^ 32)] else [w0]

/-- What the decoder reads from the instruction whose bits are `w`, the first word in the low 32 bits. -/
def decodeTableWord (nbits w : Nat) : Option Instr :=
  match decode (wordsOf nbits w) with
  | .ok (i, _) => some i
  | .error _ => none

end Sys2Proof
end

