-- ==== Sys2Proof/Config.lean ====
section
/-! DEFINITION. The configuration of 00_scope R6: what is fixed for one machine ("no runtime reconfiguration"). It is
plain data; a machine holds its configuration in `State.cfg` and no step changes it (log entry 1). -/

namespace Sys2Proof

/-- `PIX_BO`: the byte order of a 2-byte pixel (00_scope R6, R10; 20_memory R56). -/
inductive ByteOrder where
  | be
  | le
  deriving DecidableEq, Repr

/-- `SELECT_POLICY` (43_pool R127, R128). -/
inductive Policy where
  | weighted
  | firstReady
  deriving DecidableEq, Repr

/-- The `EXPAND` parameter: a function of the sample alone (41_pixel R101). PRESUMED (log entry 3): `replicate` is the
spec's default, whose bit pattern the spec marks as general knowledge. `table` is any other function u8 → u16, written
out as its 256 values. -/
inductive Expand where
  | replicate
  | table (values : Vector Half 256)
  deriving DecidableEq, Repr

/-- The configuration of 00_scope R6. DEDUCED (log entry 16): `slotBytes` has the 32 bits of CFG_SLOT_BYTES
(10_state R42). -/
structure Config where
  /-- `N`, the number of frame slots. -/
  slotCount : Nat
  /-- `L`, the largest accepted `line_count`. -/
  maxLines : Nat
  /-- `OUT_ROWS`, the row capacity of each output buffer. -/
  outRows : Nat
  /-- `SLOT_BYTES`, the payload capacity of each slot. -/
  slotBytes : BitVec 32
  /-- `UDP_PORT`, informational only. -/
  udpPort : Half
  /-- `SELECT_POLICY`. -/
  policy : Policy
  /-- `PIX_BO`. -/
  pixelOrder : ByteOrder
  /-- `EXPAND`. -/
  expand : Expand
  deriving DecidableEq, Repr

/-- `OUT_SIDE`: its one legal value (00_scope R6). -/
def outSide : Nat := 240

/-- `WEIGHT`: its one legal value (00_scope R6; 43_pool R127). -/
def weight : Nat := 2

/-- The configuration of `State.reset`. DESIGN CHOICE (log entry 1), unsafe: the spec leaves `N`, `L`, `SLOT_BYTES` and
`PIX_BO` open; these are the values of its test configuration (95_test_vectors section 1). Statements about a step hold
for every configuration, since the configuration is a field of the state. -/
def Config.test : Config where
  slotCount := 4
  maxLines := 15
  outRows := 30
  slotBytes := 7200#32
  udpPort := 8888#16
  policy := .weighted
  pixelOrder := .be
  expand := .replicate

end Sys2Proof
end

