-- ==== Sys2Proof/Machine/Memory.lean ====
section
/-! DEFINITION. The data spaces of 20_memory R48 that hold `undef` until they are written: SLOTMEM[i] and OBUF[b] are
memories of bytes, PANEL one of u16 pixels. A space is a list of (address, value) pairs with strictly rising addresses; an
address that is not listed holds `undef`, "the absence of a value" (00_scope R11), which is what R47 gives every one of
them at reset. -/

namespace Sys2Proof.Machine

/-- A byte space: SLOTMEM[i] or OBUF[b] (20_memory R48). -/
abbrev Memory := List Host.Cell

/-- A pixel space: PANEL (10_state R41), the pixel of row `r` and column `c` at `240 · r + c`. -/
abbrev Raster := List (Nat × Half)

/-- The canonical form: addresses strictly rising. No listed entry can equal what an unlisted address reads as, since
that is no value. -/
abbrev Sparse.wf {α : Type} (m : List (Nat × α)) : Prop := m.Pairwise (fun x y => x.1 < y.1)

/-- The canonical form of a byte space. -/
abbrev Memory.wf (m : Memory) : Prop := Sparse.wf m

/-- The value at an address, or none where the space holds `undef`. -/
def Sparse.read {α : Type} : List (Nat × α) → Nat → Option α
  | [], _ => none
  | (k, v) :: rest, a => if k = a then some v else Sparse.read rest a

/-- The pairs that list `values` at `base`, `base + 1`, … -/
def Sparse.cells {α : Type} : Nat → List α → List (Nat × α)
  | _, [] => []
  | base, v :: vs => (base, v) :: Sparse.cells (base + 1) vs

/-- The `n` addresses from `base` on become `undef`. -/
def Sparse.erase {α : Type} (m : List (Nat × α)) (base n : Nat) : List (Nat × α) :=
  m.filter (fun kv => kv.1 < base || base + n ≤ kv.1)

/-- `MemWrite` of consecutive values from `base` on (00_scope R11). -/
def Sparse.write {α : Type} (m : List (Nat × α)) (base : Nat) (values : List α) : List (Nat × α) :=
  m.filter (fun kv => kv.1 < base) ++ Sparse.cells base values
    ++ m.filter (fun kv => base + values.length ≤ kv.1)

/-- The values of a list of readings, if none of them is `undef`. -/
def allDefined {α : Type} : List (Option α) → Option (List α)
  | [] => some []
  | none :: _ => none
  | some v :: rest =>
    match allDefined rest with
    | none => none
    | some vs => some (v :: vs)

end Sys2Proof.Machine
end

