-- ==== Sys2Proof/Machine/Tables.lean ====
section
/-! DEFINITION. The functions from which reset builds LUT, HMAP and VMAP: EXPAND (41_pixel R100, R101) and map180
(42_scaler R107). -/

namespace Sys2Proof.Machine

/-- The spec's default expansion (R101): `R5 = r3 : r3[2:1]`, `G6 = g3 : g3`, `B5 = b2 : b2 : b2[1]`, red in [15:11], green
in [10:5], blue in [4:0]. PRESUMED (log entry 3): the spec marks the pattern and the layout as general knowledge. -/
def expandReplicate (s : Byte) : Half :=
  let r3 := s.extractLsb' 5 3
  let g3 := s.extractLsb' 2 3
  let b2 := s.extractLsb' 0 2
  (r3 ++ r3.extractLsb' 1 2) ++ (g3 ++ g3) ++ (b2 ++ b2 ++ b2.extractLsb' 1 1)

/-- `EXPAND(s)` of a configuration (00_scope R6). -/
def expandPixel (c : Config) (s : Byte) : Half :=
  match c.expand with
  | .replicate => expandReplicate s
  | .table values => values[s.toNat]

/-- `map180(i) = min((i · 180 + 120) / 240, 179)` (R107). -/
def map180 (i : Nat) : Nat := min ((i * 180 + 120) / 240) 179

/-- `LUT` as reset builds it (41_pixel R102; 70_reset_and_hazards R173). -/
def builtLut (c : Config) : List Half := (List.range 256).map fun s => expandPixel c (BitVec.ofNat 8 s)

/-- `HMAP` and `VMAP` as reset builds them (70_reset_and_hazards R174). -/
def builtMap : List Byte := (List.range 240).map fun i => BitVec.ofNat 8 (map180 i)

end Sys2Proof.Machine
end

