-- ==== Sys2Proof/Machine/State.lean ====
section
/-! DEFINITION. The machine's state as plain data: every piece of state of spec/10_state.md, the results the ports return
(30_encoding R85), and the inputs the world outside has prepared (which agent moves next, the command words delivered, the
datagrams the transport will append). -/

namespace Sys2Proof.Machine

/-- `BSTATE` (10_state R22). -/
inductive BState where
  | run
  | halted
  deriving DecidableEq, Repr

/-- A slot's `state` (10_state R30). -/
inductive SlotState where
  | free
  | filling
  | ready
  | displaying
  deriving DecidableEq, Repr

/-- The three source widths (30_encoding R71). -/
inductive SrcWidth where
  | w240
  | w180
  | w120
  deriving DecidableEq, Repr

/-- The causes of a command fault (60_exceptions R155). -/
inductive Cause where
  | illegalCmd
  | undef
  | wrongAgent
  | badSlot
  | badState
  | xferBusy
  | badOperand
  | badCsr
  | alloc
  deriving DecidableEq, Repr

/-- The code of a cause (60_exceptions R155). -/
def Cause.code : Cause → BitVec 8
  | .illegalCmd => 0x81#8
  | .undef => 0x82#8
  | .wrongAgent => 0x83#8
  | .badSlot => 0x84#8
  | .badState => 0x85#8
  | .xferBusy => 0x86#8
  | .badOperand => 0x87#8
  | .badCsr => 0x88#8
  | .alloc => 0x89#8

/-- The subcauses of MALFORMED (30_encoding R85); `Subcause.code` gives their numbers. -/
inductive Subcause where
  | hdrShort
  | lcZero
  | lcOver
  | resRsv
  | cmodeRsv
  deriving DecidableEq, Repr

/-- The status codes (30_encoding R85); `Code.code` gives their numbers. -/
inductive Code where
  | ok
  | empty
  | exhausted
  | malformed
  | short
  | overflow
  | nodraw
  | halted
  deriving DecidableEq, Repr

/-- The verdict of a geometry (42_scaler R112; 10_state R39). -/
inductive Verdict where
  | ok
  | overflow
  | nodraw
  deriving DecidableEq, Repr

/-- The record a header decodes to (40_codec R92). -/
structure Header where
  frameId : Half
  yStart : Half
  resolution : BitVec 2
  colorMode : BitVec 2
  lineCount : BitVec 4
  sourceWidth : SrcWidth
  bytesPerPixel : Nat
  isFullDepth : Bool
  expected : Nat
  deriving DecidableEq, Repr

/-- The record of the geometry function (42_scaler R113); `dstY0` is not truncated. -/
structure Geom where
  verdict : Verdict
  dstY0 : Nat
  dstLineCount : Nat
  y : Nat
  h : Nat
  deriving DecidableEq, Repr

/-- The `data` of a status (30_encoding R85): the fields each command's rule names. -/
inductive Data where
  /-- `{}` -/
  | none
  /-- HDR_DECODE: the header (40_codec R93). -/
  | header (h : Header)
  /-- `{cause}` of MALFORMED. -/
  | cause (c : Subcause)
  /-- HDR_ENCODE: `{bytes}` (40_codec R95). -/
  | bytes (b : List Byte)
  /-- `{expected, surplus}` (40_codec R96; 43_pool R124). -/
  | fits (expected surplus : Nat)
  /-- `{expected, avail}` of SHORT (40_codec R96; 43_pool R124). -/
  | lacks (expected avail : Nat)
  /-- RX_POLL: `{length}` (40_codec R98). -/
  | length (n : Nat)
  /-- `{pixel}` (41_pixel R105, R106). -/
  | pixel (p : Half)
  /-- `{index}` (42_scaler R118, R119). -/
  | index (n : Byte)
  /-- The geometry record (42_scaler R114, R120). -/
  | geom (g : Geom)
  /-- SCL_BAND's OVERFLOW: `{dst_y0, dst_line_count}` (42_scaler R120). -/
  | tooTall (dstY0 dstLineCount : Nat)
  /-- `{slot}` (43_pool). -/
  | slot (i : Nat)
  /-- `{slot, frame_id, y_start}` (43_pool R130; 45_sequences R145). -/
  | band (slot : Nat) (frameId yStart : Half)
  /-- XFA_PUSH: `{buf}` (44_transfer R136). -/
  | buf (b : Bool)
  /-- `{slot, y, h}` (44_transfer R140; 45_sequences R147). -/
  | drawn (slot : Nat) (y h : BitVec 8)
  /-- CSR_READ: `{value}` (45_sequences R149). -/
  | value (v : Word)
  deriving DecidableEq, Repr

/-- `Status(code, data)` (30_encoding R85). -/
structure Status where
  code : Code
  data : Data
  deriving DecidableEq, Repr

/-- What a command returns on its port: a status (30_encoding R85) or a fault (60_exceptions R156). -/
inductive Result where
  | status (s : Status)
  | fault (c : Cause)
  deriving DecidableEq, Repr

/-- `PORT[p] = (cmd, step)` (10_state R21), `cmd = none` for `idle`. `sub` is the model's own: what an earlier micro-step's
'perform C' took and a later one needs (log entry 9). -/
structure PortState where
  cmd : Option Instr
  step : Nat
  sub : Option Status
  deriving DecidableEq, Repr

/-- `(idle, 0)` (10_state R21). -/
def PortState.idle : PortState := { cmd := none, step := 0, sub := none }

/-- One value for each command port. -/
structure PerPort (α : Type) where
  producer : α
  consumer : α
  host : α
  deriving DecidableEq, Repr

def PerPort.get {α : Type} (v : PerPort α) : Port → α
  | .producer => v.producer
  | .consumer => v.consumer
  | .host => v.host

def PerPort.set {α : Type} (v : PerPort α) (p : Port) (a : α) : PerPort α :=
  match p with
  | .producer => { v with producer := a }
  | .consumer => { v with consumer := a }
  | .host => { v with host := a }

def PerPort.all {α : Type} (a : α) : PerPort α := { producer := a, consumer := a, host := a }

/-- One value for each output buffer; the index is `false` for 0 and `true` for 1. -/
structure PerBuf (α : Type) where
  buf0 : α
  buf1 : α
  deriving DecidableEq, Repr

def PerBuf.get {α : Type} (v : PerBuf α) : Bool → α
  | false => v.buf0
  | true => v.buf1

def PerBuf.set {α : Type} (v : PerBuf α) (b : Bool) (a : α) : PerBuf α :=
  match b with
  | false => { v with buf0 := a }
  | true => { v with buf1 := a }

/-- The metadata of a slot (10_state R31). -/
structure SlotMeta where
  frameId : Half
  srcY0 : Half
  srcWidth : SrcWidth
  srcLineCount : BitVec 8
  isFullDepth : Bool
  deriving DecidableEq, Repr

/-- A frame slot (10_state R30 to R33); `info = none` is metadata that is `undef`. -/
structure Slot where
  state : SlotState
  filled : Bool
  info : Option SlotMeta
  payload : Memory
  deriving DecidableEq, Repr

/-- A slot after reset (10_state R47). -/
def Slot.reset : Slot := { state := .free, filled := false, info := none, payload := [] }

/-- `XF_DESC` (10_state R25). -/
structure XferDesc where
  y : BitVec 8
  h : BitVec 8
  buf : Bool
  deriving DecidableEq, Repr

/-- `CLATCH` when it is not `undef` (10_state R39). -/
structure Latch where
  verdict : Verdict
  y : BitVec 8
  h : BitVec 8
  deriving DecidableEq, Repr

/-- A datagram: "a byte sequence of any length" (10_state R40). -/
abbrev Datagram := List Byte

/-- Who moves next: one of the five agents of 00_scope R3, or the environment, which applies reset (70_reset_and_hazards
R171) with the input `ALLOC_OK`. -/
inductive Turn where
  | port (p : Port)
  | engine
  | transport
  | reset (allocOk : Bool)
  deriving DecidableEq, Repr

/-- The machine's state. -/
structure State where
  /-- The configuration (00_scope R6). -/
  cfg : Config
  /-- `BSTATE` (10_state R22). -/
  bstate : BState
  /-- `FAULT_CAUSE` (10_state R23). -/
  faultCause : BitVec 8
  /-- `PORT[p]` (10_state R21). -/
  port : PerPort PortState
  /-- What each port has returned last (30_encoding R85). -/
  result : PerPort (Option Result)
  /-- `PH` (10_state R20). -/
  ph : Option Nat
  /-- `CH` (10_state R20). -/
  ch : Option Nat
  /-- `ABI` (10_state R24). -/
  abi : Bool
  /-- `XF_BUSY` (10_state R25). -/
  xfBusy : Bool
  /-- `XF_DESC` (10_state R25). -/
  xfDesc : XferDesc
  /-- `CLATCH` (10_state R39). -/
  clatch : Option Latch
  /-- `CNT_DROP` (10_state R27). -/
  cntDrop : Word
  /-- `CNT_MALFORMED` (10_state R28). -/
  cntMalformed : Word
  /-- `CNT_SHORT` (10_state R29). -/
  cntShort : Word
  /-- `CNT_OVERFLOW` (10_state R29). -/
  cntOverflow : Word
  /-- `SLOT[0..N-1]` (10_state R30 to R33). -/
  slots : List Slot
  /-- `LUT` (10_state R34); empty when `undef`. -/
  lut : List Half
  /-- `HMAP` (10_state R35); empty when `undef`. -/
  hmap : List Byte
  /-- `VMAP` (10_state R36); empty when `undef`. -/
  vmap : List Byte
  /-- `OBUF[b]` (10_state R37). -/
  obuf : PerBuf Memory
  /-- `OBUF_ROWS[b]` (10_state R38). -/
  obufRows : PerBuf (BitVec 8)
  /-- `RXQ` (10_state R40), head first. -/
  rxq : List Datagram
  /-- `RXD` (10_state R40). -/
  rxd : Option Datagram
  /-- `PANEL` (10_state R41). -/
  panel : Raster
  /-- The model's own: the port whose command is executed (log entry 7). -/
  issuer : Port
  /-- The model's own input: which agent moves next (log entry 4). -/
  turns : List Turn
  /-- The model's own input: the command words delivered to each port (log entry 5). -/
  cmdq : PerPort (List Word)
  /-- The model's own input: the datagrams the TRANSPORT will append (log entry 6). -/
  air : List Datagram
  deriving DecidableEq, Repr

/-- The stops of the model that are no command faults of the spec (a command fault is a next state, 60_exceptions R156).
Both are writes to an address that does not exist (20_memory R48), in states that no run from a reset with a well-formed
configuration reaches (log entry 11). -/
inductive Fault where
  /-- Raised by POOL_FILL when the expected payload is longer than SLOT_BYTES. Safe: no write outside the slot is made up. -/
  | outsideSlot
  /-- Raised by the ENGINE when XF_DESC names rows at or beyond row 240. Safe: no write outside PANEL is made up. -/
  | outsidePanel
  deriving DecidableEq, Repr

/-- Why the model takes no step. -/
inductive Refusal where
  /-- An instruction that has no meaning yet; no arm of `exec` answers so. Safe. -/
  | notModelled (mnemonic : String)
  /-- Raised by every step of a machine whose configuration is not well formed (00_scope R7, R12). Safe. -/
  | illFormedConfig
  deriving DecidableEq, Repr

/-- The state right after the reset sequence with a configuration and `ALLOC_OK` (10_state R47; 70_reset_and_hazards R172
to R177), nothing delivered from outside. -/
def State.resetWith (c : Config) (allocOk : Bool) : State where
  cfg := c
  bstate := if allocOk then .run else .halted
  faultCause := if allocOk then 0#8 else Cause.alloc.code
  port := .all .idle
  result := .all none
  ph := none
  ch := none
  abi := false
  xfBusy := false
  xfDesc := { y := 0#8, h := 0#8, buf := false }
  clatch := none
  cntDrop := 0#32
  cntMalformed := 0#32
  cntShort := 0#32
  cntOverflow := 0#32
  slots := List.replicate c.slotCount .reset
  lut := if allocOk then builtLut c else []
  hmap := if allocOk then builtMap else []
  vmap := if allocOk then builtMap else []
  obuf := { buf0 := [], buf1 := [] }
  obufRows := { buf0 := 0#8, buf1 := 0#8 }
  rxq := []
  rxd := none
  panel := []
  issuer := .host
  turns := []
  cmdq := .all []
  air := []

/-- The machine right after reset. DESIGN CHOICE (log entries 1 and 2), unsafe: the configuration is the spec's test
configuration and `ALLOC_OK` is true; both are inputs the spec leaves open. -/
def State.reset : State := .resetWith .test true

end Sys2Proof.Machine
end

