-- ==== Sys2Proof/Machine/Operands.lean ====
section
/-! DEFINITION. What the preamble asks of a command before its own pseudocode: the ports that may issue it, its slot
operand, and whether it is performed while the block is halted (30_encoding R76, R83, R86; 60_exceptions R157, R160). -/

namespace Sys2Proof.Machine

/-- The ports R83 lists for the command. -/
def allowedOn (i : Instr) (p : Port) : Bool :=
  match i with
  | .hdrDecode .. => true
  | .hdrEncode .. => true
  | .hdrCheckLen .. => true
  | .rxPoll => p = .producer
  | .pxcExpand _ => true
  | .pxcLookup _ => true
  | .sclHmap _ => true
  | .sclVmap _ => true
  | .sclGeom .. => true
  | .sclBand _ => p = .consumer
  | .poolAcquire => p = .producer
  | .poolFill _ => p = .producer
  | .poolCommit _ => p = .producer
  | .poolAbort _ => p = .producer
  | .poolSelect => p = .consumer
  | .poolRelease _ => p = .consumer
  | .xfaWait => p = .consumer
  | .xfaPush .. => p = .consumer
  | .xfaDrain _ => p = .consumer
  | .csrRead _ => true
  | .seqIngest => p = .producer
  | .seqConsume => p = .consumer

/-- The slot operand of a command of format FS (R76). -/
def slotOperand (i : Instr) : Option (BitVec 8) :=
  match i with
  | .sclBand s => some s
  | .poolFill s => some s
  | .poolCommit s => some s
  | .poolAbort s => some s
  | .poolRelease s => some s
  | .xfaDrain s => some s
  | _ => none

/-- The slot operand names no slot of the pool: `S ≥ N` (R76). -/
def badSlotOperand (c : Config) (i : Instr) : Bool :=
  match slotOperand i with
  | some s => c.slotCount ≤ s.toNat
  | none => false

/-- The opcode that is performed while the block is halted: CSR_READ's (60_exceptions R157, R160). -/
def performedHalted (op : BitVec 8) : Bool := op = 0x60#8

/-- A port on which the command may be issued: HOST where any port may. -/
def somePort (i : Instr) : Port :=
  if allowedOn i .host then .host else if allowedOn i .producer then .producer else .consumer

end Sys2Proof.Machine
end

