-- ==== Sys2Proof/Machine/Ops.lean ====
section
/-! DEFINITION. The named operations over the registers, the shape every command's micro-step has, the preamble every
command runs first (60_exceptions R160), and taking a fault (R156). -/

namespace Sys2Proof.Machine

/-! ## Ports and results -/

/-- `PORT[p]` of the issuing port (10_state R21). -/
def State.portState (s : State) : PortState := s.port.get s.issuer

/-- Writes `PORT[p]` of the issuing port. -/
def State.setPortState (s : State) (ps : PortState) : State :=
  { s with port := s.port.set s.issuer ps }

/-- The result the issuing port has returned last. -/
def State.lastResult (s : State) : Option Result := s.result.get s.issuer

/-- The command on the issuing port ends: the port becomes `(idle, 0)` and returns a result (10_state R21; 30_encoding
R85). -/
def State.conclude (s : State) (r : Result) : State :=
  { s with port := s.port.set s.issuer .idle, result := s.result.set s.issuer (some r) }

/-- `return Status(code, data)` (00_scope R11). -/
def State.finish (s : State) (code : Code) (data : Data) : State := s.conclude (.status ⟨code, data⟩)

/-! ## Faults -/

/-- The block halts with a cause; the first cause is kept (60_exceptions R156). -/
def State.halt (s : State) (c : Cause) : State :=
  { s with faultCause := if s.faultCause = 0#8 then c.code else s.faultCause, bstate := .halted }

/-- Fault entry (60_exceptions R156): the cause is recorded if it is the first, the block halts, the issuing port becomes
`(idle, 0)` and returns `Fault(cause)`. There is no return from a fault but reset (R163). -/
def State.faultEntry (s : State) (c : Cause) : State := (s.halt c).conclude (.fault c)

/-! ## Micro-steps -/

/-- What the pseudocode of one micro-step comes to (00_scope R11, R12): the command ends with a status; a micro-step of a
composite is done and the next one follows (keeping `sub`); the command holds; it raises a fault; or it would write to an
address that does not exist. -/
inductive Micro where
  | done (code : Code) (data : Data) (s : State)
  | next (sub : Option Status) (s : State)
  | hold
  | raise (c : Cause)
  | stop (f : Fault)
  deriving DecidableEq, Repr

/-- Micro-step `k` of command `i` takes effect on the state and on its port. A fault is precise: it keeps nothing of what
the micro-step would have written (60_exceptions R156). A hold leaves the command at its micro-step (00_scope R11; log
entry 13). -/
def settle (i : Instr) (k : Nat) (s : State) (m : Micro) : Host.Outcome State Fault Refusal :=
  match m with
  | .done code data t => .next (t.finish code data)
  | .next sub t => .next (t.setPortState { cmd := some i, step := k + 1, sub := sub })
  | .hold => .next (s.setPortState { cmd := some i, step := k, sub := s.portState.sub })
  | .raise c => .next (s.faultEntry c)
  | .stop f => .fault f

/-- The command is turned away because the block is halted (60_exceptions R157). -/
def turnedAway (i : Instr) (s : State) : Bool := s.bstate = .halted && !performedHalted i.opcode

/-- The common preamble (60_exceptions R160), checks 1, 3 and 4; check 2 is the decoder's. -/
def preamble (i : Instr) (s : State) (body : Host.Outcome State Fault Refusal) : Host.Outcome State Fault Refusal :=
  if turnedAway i s then .next (s.finish .halted .none)
  else if !allowedOn i s.issuer then .next (s.faultEntry .wrongAgent)
  else if badSlotOperand s.cfg i then .next (s.faultEntry .badSlot)
  else body

/-- A primitive command: "one micro-step" (10_state R21). -/
def primitive (i : Instr) (s : State) (m : Micro) : Host.Outcome State Fault Refusal :=
  preamble i s (settle i 1 s m)

/-- The number of the micro-step the issuing port is at (10_state R21): 1 for an idle port, which takes the command. -/
def State.microStep (s : State) : Nat := if s.portState.step ≤ 1 then 1 else s.portState.step

/-- A composite command: the preamble in the first micro-step; in a later one only the halted test, which ends the command
before the micro-step is performed (60_exceptions R157, R160). -/
def composite (i : Instr) (s : State) (m : Nat → Micro) : Host.Outcome State Fault Refusal :=
  if s.microStep = 1 then preamble i s (settle i 1 s (m 1))
  else if turnedAway i s then .next (s.finish .halted .none)
  else settle i s.microStep s (m s.microStep)

/-- "perform C" (45_sequences R145): C's state changes, and its status taken, without freeing the port. -/
def perform (m : Micro) : Micro :=
  match m with
  | .done code data t => .next (some ⟨code, data⟩) t
  | other => other

/-- "perform C" where the micro-steps that follow still need what an earlier one took (45_sequences R147). -/
def performKeeping (sub : Option Status) (m : Micro) : Micro :=
  match m with
  | .done _ _ t => .next sub t
  | other => other

/-! ## Slots -/

/-- The state of slot `i`, if the pool has it (10_state R30). -/
def State.slotState (s : State) (i : Nat) : Option SlotState := (s.slots[i]?).map (·.state)

/-- Writes slot `i` (10_state R30 to R33). -/
def State.updateSlot (s : State) (i : Nat) (f : Slot → Slot) : State := { s with slots := s.slots.modify i f }

/-- The PRODUCER holds slot `i` in `Filling` (10_state R20; 43_pool R122). -/
def State.producerHolds (s : State) (i : Nat) : Bool := s.ph = some i && s.slotState i = some .filling

/-- The CONSUMER holds slot `i` in `Displaying` (10_state R20; 43_pool R122). -/
def State.consumerHolds (s : State) (i : Nat) : Bool := s.ch = some i && s.slotState i = some .displaying

/-! ## Pixels -/

/-- The 2-byte pixel `a`, `b` (`a` at the lower address) read with a byte order (00_scope R10). -/
def pixelOf (o : ByteOrder) (a b : Byte) : Half :=
  match o with
  | .be => a ++ b
  | .le => b ++ a

/-- The two bytes of a pixel, the one at the lower address first (00_scope R10). -/
def pixelBytes (o : ByteOrder) (p : Half) : List Byte :=
  match o with
  | .be => [p.extractLsb' 8 8, p.extractLsb' 0 8]
  | .le => [p.extractLsb' 0 8, p.extractLsb' 8 8]

/-- `pixel_read(PIX_BO, MemRead(space, addr, 2))` (00_scope R10, R11), none where a byte is `undef`. -/
def readPixel (o : ByteOrder) (m : Memory) (addr : Nat) : Option Half :=
  match Sparse.read m addr, Sparse.read m (addr + 1) with
  | some a, some b => some (pixelOf o a b)
  | _, _ => none

end Sys2Proof.Machine
end

