-- ==== Sys2Proof/Machine/Codec.lean ====
section
/-! DEFINITION. The HDR unit (40_codec.md): the wire header, the payload-size check, and the receive queue. -/

namespace Sys2Proof.Machine

/-! ## The wire header -/

/-- `width(res)` (40_codec R89): resolution 3 has none. -/
def widthOf (res : BitVec 2) : Option SrcWidth :=
  match res.toNat with
  | 0 => some .w240
  | 1 => some .w180
  | 2 => some .w120
  | _ => none

/-- The width in samples (30_encoding R71). -/
def SrcWidth.samples : SrcWidth → Nat
  | .w240 => 240
  | .w180 => 180
  | .w120 => 120

/-- `bpp` of a valid color mode (40_codec R89). -/
def bytesPerPixel (fullDepth : Bool) : Nat := if fullDepth then 2 else 1

/-- `resolution = f[7:6]` (30_encoding R70). -/
def flagsRes (f : Byte) : BitVec 2 := f.extractLsb' 6 2

/-- `color_mode = f[5:4]` (30_encoding R70). -/
def flagsMode (f : Byte) : BitVec 2 := f.extractLsb' 4 2

/-- `line_count = f[3:0]` (30_encoding R70). -/
def flagsLines (f : Byte) : BitVec 4 := f.extractLsb' 0 4

/-- `check(f)` (40_codec R90): the first failing test, or none for `valid`. -/
def checkFlags (maxLines : Nat) (f : Byte) : Option Subcause :=
  if flagsLines f = 0#4 then some .lcZero
  else if maxLines < (flagsLines f).toNat then some .lcOver
  else if flagsRes f = 3#2 then some .resRsv
  else if 2 ≤ (flagsMode f).toNat then some .cmodeRsv
  else none

/-- The payload bytes of a band: width × lines × bytes per pixel (40_codec R91). -/
def payloadBytes (w : SrcWidth) (lines : Nat) (fullDepth : Bool) : Nat :=
  w.samples * lines * bytesPerPixel fullDepth

/-- `decode(B)` (40_codec R92). -/
def decodeHeader (maxLines : Nat) (b0 b1 b2 b3 b4 : Byte) : Except Subcause Header :=
  match checkFlags maxLines b4 with
  | some c => .error c
  | none =>
    match widthOf (flagsRes b4) with
    | none => .error .resRsv
    | some w =>
      let full : Bool := flagsMode b4 = 0#2
      .ok { frameId := b0 ++ b1, yStart := b2 ++ b3, resolution := flagsRes b4, colorMode := flagsMode b4,
            lineCount := flagsLines b4, sourceWidth := w, bytesPerPixel := bytesPerPixel full, isFullDepth := full,
            expected := payloadBytes w (flagsLines b4).toNat full }

/-- `encode(fid, y, res, cm, lc)` (40_codec R94). -/
def encodeHeader (fid y : Half) (res cm : BitVec 2) (lc : BitVec 4) : List Byte :=
  [fid.extractLsb' 8 8, fid.extractLsb' 0 8, y.extractLsb' 8 8, y.extractLsb' 0 8, res ++ cm ++ lc]

/-- The header of a datagram: its first five bytes decoded, `HDR_SHORT` if it has fewer (43_pool R124; 45_sequences
R145). -/
def headerOf (maxLines : Nat) (d : Datagram) : Except Subcause Header :=
  match d with
  | b0 :: b1 :: b2 :: b3 :: b4 :: _ => decodeHeader maxLines b0 b1 b2 b3 b4
  | _ => .error .hdrShort

/-! ## The commands -/

def hdrDecode (b0 b1 b2 b3 b4 : Byte) (s : State) : Micro :=
  match decodeHeader s.cfg.maxLines b0 b1 b2 b3 b4 with
  | .error c => .done .malformed (.cause c) s
  | .ok h => .done .ok (.header h) s

/-- HDR_DECODE (40_codec R93). -/
def execHdrDecode (b0 b1 b2 b3 b4 : Byte) (s : State) : Host.Outcome State Fault Refusal :=
  primitive (.hdrDecode b0 b1 b2 b3 b4) s (hdrDecode b0 b1 b2 b3 b4 s)

/-- HDR_ENCODE (40_codec R95). -/
def execHdrEncode (fid y : Half) (res cm : BitVec 2) (lc : BitVec 4) (s : State) : Host.Outcome State Fault Refusal :=
  primitive (.hdrEncode fid y res cm lc) s (.done .ok (.bytes (encodeHeader fid y res cm lc)) s)

/-- `lencheck(f, avail)` (40_codec R96). `check` and `expected` read the flags byte alone (R90, R91), so the four other
header bytes do not matter. -/
def lenCheck (flags : Byte) (avail : Nat) (s : State) : Micro :=
  match decodeHeader s.cfg.maxLines 0#8 0#8 0#8 0#8 flags with
  | .error c => .done .malformed (.cause c) s
  | .ok h =>
    if avail < h.expected then .done .short (.lacks h.expected avail) s
    else .done .ok (.fits h.expected (avail - h.expected)) s

/-- HDR_CHECK_LEN (40_codec R96). -/
def execHdrCheckLen (flags : Byte) (avail : Half) (s : State) : Host.Outcome State Fault Refusal :=
  primitive (.hdrCheckLen flags avail) s (lenCheck flags avail.toNat s)

def rxPoll (s : State) : Micro :=
  match s.rxq with
  | [] => .done .empty .none s
  | d :: rest => .done .ok (.length d.length) { s with rxq := rest, rxd := some d }

/-- RX_POLL (40_codec R98). -/
def execRxPoll (s : State) : Host.Outcome State Fault Refusal :=
  primitive .rxPoll s (rxPoll s)

end Sys2Proof.Machine
end

