-- ==== Sys2Proof/Machine/Pixel.lean ====
section
/-! DEFINITION. The PXC unit (41_pixel.md). -/

namespace Sys2Proof.Machine

/-- PXC_EXPAND (41_pixel R105): the closed form. -/
def execPxcExpand (sample : Byte) (s : State) : Host.Outcome State Fault Refusal :=
  primitive (.pxcExpand sample) s (.done .ok (.pixel (expandPixel s.cfg sample)) s)

/-- `LUT[s]`; a LUT that was not built is `undef` (70_reset_and_hazards R177; 00_scope R14). -/
def pxcLookup (sample : Byte) (s : State) : Micro :=
  match s.lut[sample.toNat]? with
  | some p => .done .ok (.pixel p) s
  | none => .raise .undef

/-- PXC_LOOKUP (41_pixel R106). -/
def execPxcLookup (sample : Byte) (s : State) : Host.Outcome State Fault Refusal :=
  primitive (.pxcLookup sample) s (pxcLookup sample s)

end Sys2Proof.Machine
end

