-- ==== Sys2Proof/Machine/Pool.lean ====
section
/-! DEFINITION. The frame-slot pool and the frame selector (43_pool.md). -/

namespace Sys2Proof.Machine

/-! ## Producer commands -/

/-- The `Free` slot of lowest index (43_pool R123). -/
def firstFree (slots : List Slot) : Option Nat := slots.findIdx? (fun sl => sl.state = .free)

/-- `POOL_ACQUIRE`, one atomic step (43_pool R123). -/
def poolAcquire (s : State) : Micro :=
  if s.ph ≠ none then .raise .badState
  else
    match firstFree s.slots with
    | some i =>
      .done .ok (.slot i) { s.updateSlot i (fun sl => { sl with state := .filling, filled := false }) with ph := some i }
    | none => .done .exhausted .none { s with cntDrop := s.cntDrop + 1#32 }

/-- POOL_ACQUIRE (43_pool R123). -/
def execPoolAcquire (s : State) : Host.Outcome State Fault Refusal :=
  primitive .poolAcquire s (poolAcquire s)

/-- The slot `sl` after a fill with header `h` from datagram `d` (43_pool R124). -/
def filledSlot (h : Header) (d : Datagram) (sl : Slot) : Slot :=
  { sl with
    filled := true
    info := some { frameId := h.frameId, srcY0 := h.yStart, srcWidth := h.sourceWidth,
                   srcLineCount := h.lineCount.setWidth 8, isFullDepth := h.isFullDepth }
    payload := Sparse.write sl.payload 0 ((d.drop 5).take h.expected) }

/-- `POOL_FILL S`, one atomic step (43_pool R124). -/
def poolFill (slot : Nat) (s : State) : Micro :=
  if !s.producerHolds slot || (s.slots[slot]?).any (·.filled) then .raise .badState
  else
    match s.rxd with
    | none => .raise .badState
    | some d =>
      match headerOf s.cfg.maxLines d with
      | .error c => .done .malformed (.cause c) s
      | .ok h =>
        let avail := d.length - 5
        if avail < h.expected then .done .short (.lacks h.expected avail) { s with cntShort := s.cntShort + 1#32 }
        else if s.cfg.slotBytes.toNat < h.expected then .stop .outsideSlot
        else .done .ok (.fits h.expected (avail - h.expected)) (s.updateSlot slot (filledSlot h d))

/-- POOL_FILL (43_pool R124). -/
def execPoolFill (slot : BitVec 8) (s : State) : Host.Outcome State Fault Refusal :=
  primitive (.poolFill slot) s (poolFill slot.toNat s)

/-- `POOL_COMMIT S`, one atomic step (43_pool R125). -/
def poolCommit (slot : Nat) (s : State) : Micro :=
  if !s.producerHolds slot || !(s.slots[slot]?).any (·.filled) then .raise .badState
  else .done .ok (.slot slot) { s.updateSlot slot (fun sl => { sl with state := .ready }) with ph := none }

/-- POOL_COMMIT (43_pool R125). -/
def execPoolCommit (slot : BitVec 8) (s : State) : Host.Outcome State Fault Refusal :=
  primitive (.poolCommit slot) s (poolCommit slot.toNat s)

/-- `POOL_ABORT S`, one atomic step (43_pool R126). -/
def poolAbort (slot : Nat) (s : State) : Micro :=
  if !s.producerHolds slot then .raise .badState
  else .done .ok (.slot slot)
    { s.updateSlot slot (fun sl => { sl with state := .free, filled := false }) with ph := none }

/-- POOL_ABORT (43_pool R126). -/
def execPoolAbort (slot : BitVec 8) (s : State) : Host.Outcome State Fault Refusal :=
  primitive (.poolAbort slot) s (poolAbort slot.toNat s)

/-! ## Selection -/

/-- `key(i) = src_y0 + WEIGHT · frame_id`, exact (43_pool R127). -/
def selectKey (m : SlotMeta) : Nat := m.srcY0.toNat + weight * m.frameId.toNat

/-- The least-key `Ready` slot of a list whose first slot has index `i`, the lower index among equal keys, given the best
so far (43_pool R127, R129); none where a `Ready` slot's metadata is `undef`. -/
def leastKey : List Slot → Nat → Option (Nat × Nat) → Option (Option (Nat × Nat))
  | [], _, best => some best
  | sl :: rest, i, best =>
    if sl.state = .ready then
      match sl.info with
      | none => none
      | some m =>
        match best with
        | none => leastKey rest (i + 1) (some (i, selectKey m))
        | some (j, k) => leastKey rest (i + 1) (if selectKey m < k then some (i, selectKey m) else some (j, k))
    else leastKey rest (i + 1) best

/-- `select(snapshot)` (43_pool R127 to R129): the outer none is the read of an `undef` key. DESIGN CHOICE (log entry 21):
where the example of R130 (keys 6 and 10, slot of key 10 selected) contradicts the formula, the formula is followed. -/
def selectSlot (c : Config) (slots : List Slot) : Option (Option Nat) :=
  match c.policy with
  | .weighted => (leastKey slots 0 none).map fun best => best.map (·.1)
  | .firstReady => some (slots.findIdx? (fun sl => sl.state = .ready))

/-! ## Consumer commands -/

/-- `POOL_SELECT`, one atomic step (43_pool R130). -/
def poolSelect (s : State) : Micro :=
  if s.ch ≠ none then .raise .badState
  else
    match selectSlot s.cfg s.slots with
    | none => .raise .undef
    | some none => .done .empty .none s
    | some (some i) =>
      match (s.slots[i]?).bind (·.info) with
      | none => .raise .undef
      | some m =>
        .done .ok (.band i m.frameId m.srcY0)
          { s.updateSlot i (fun sl => { sl with state := .displaying }) with ch := some i }

/-- POOL_SELECT (43_pool R130). -/
def execPoolSelect (s : State) : Host.Outcome State Fault Refusal :=
  primitive .poolSelect s (poolSelect s)

/-- `POOL_RELEASE S`, one atomic step (43_pool R131). -/
def poolRelease (slot : Nat) (s : State) : Micro :=
  if !s.consumerHolds slot then .raise .badState
  else .done .ok (.slot slot) { s.updateSlot slot (fun sl => { sl with state := .free }) with ch := none }

/-- POOL_RELEASE (43_pool R131). -/
def execPoolRelease (slot : BitVec 8) (s : State) : Host.Outcome State Fault Refusal :=
  primitive (.poolRelease slot) s (poolRelease slot.toNat s)

end Sys2Proof.Machine
end

