-- ==== Sys2Proof/Machine/Scaler.lean ====
section
/-! DEFINITION. The SCL unit (42_scaler.md): the maps, the destination geometry, the source pixels, and the band copy. -/

namespace Sys2Proof.Machine

/-! ## Destination geometry -/

/-- `ceil_div(a, b)` (00_scope R9). -/
def ceilDiv (a b : Nat) : Nat := (a + b - 1) / b

/-- `dst_y0` of each branch (42_scaler R109 to R111). -/
def dstY0 (w : SrcWidth) (y0 : Nat) : Nat :=
  match w with
  | .w240 => y0
  | .w180 => (y0 * 240 + 90) / 180
  | .w120 => 2 * y0

/-- `dst_line_count` of each branch; the 120 branch is truncated at the raster (42_scaler R109 to R111). -/
def dstLines (w : SrcWidth) (y0 lc : Nat) : Nat :=
  match w with
  | .w240 => lc
  | .w180 => ceilDiv (lc * 240) 180
  | .w120 =>
    if 240 < 2 * y0 + 2 * lc then (if 2 * y0 < 240 then 240 - 2 * y0 else 0) else 2 * lc

/-- The rows of a band that lie on the raster (42_scaler R112). -/
def clippedRows (dst lines : Nat) : Nat := if 240 ≤ dst then 0 else min lines (240 - dst)

/-- `geom(W, y0, lc)` (42_scaler R109 to R113), `OUT_ROWS` given. -/
def geom (outRows : Nat) (w : SrcWidth) (y0 lc : Nat) : Geom :=
  let dst := dstY0 w y0
  let lines := dstLines w y0 lc
  if outRows < lines then { verdict := .overflow, dstY0 := dst, dstLineCount := lines, y := 0, h := 0 }
  else
    let h := clippedRows dst lines
    { verdict := if h = 0 then .nodraw else .ok, dstY0 := dst, dstLineCount := lines,
      y := if h = 0 then 0 else dst, h := h }

/-- The status code of a verdict (42_scaler R120; 44_transfer R140). -/
def Verdict.code : Verdict → Code
  | .ok => .ok
  | .overflow => .overflow
  | .nodraw => .nodraw

/-! ## Source pixels -/

/-- `srcpos(W, lc, r, c)` (42_scaler R116): source row and column; none where a map entry is `undef`. The 180 branch
indexes VMAP by the band-local row (90_conflicts C5). -/
def srcPos (s : State) (w : SrcWidth) (lc r c : Nat) : Option (Nat × Nat) :=
  match w with
  | .w240 => some (r, c)
  | .w180 =>
    match s.vmap[r]?, s.hmap[c]? with
    | some v, some x => some (min v.toNat (lc - 1), x.toNat)
    | _, _ => none
  | .w120 => some (r / 2, c / 2)

/-- `srcpix(i, sr, sc)` (42_scaler R115) of a slot's metadata and payload. -/
def srcPix (s : State) (m : SlotMeta) (payload : Memory) (sr sc : Nat) : Option Half :=
  let at_ := m.srcWidth.samples * sr + sc
  if m.isFullDepth then readPixel s.cfg.pixelOrder payload (2 * at_)
  else
    match Sparse.read payload at_ with
    | some b => s.lut[b.toNat]?
    | none => none

/-- Destination pixel `(r, c)` of a band (42_scaler R115, R116). -/
def bandPixel (s : State) (m : SlotMeta) (payload : Memory) (r c : Nat) : Option Half :=
  match srcPos s m.srcWidth m.srcLineCount.toNat r c with
  | some (sr, sc) => srcPix s m payload sr sc
  | none => none

/-- The pixels of destination rows `0 .. h-1`, row-major (20_memory R50; 42_scaler R120). -/
def bandPixels (s : State) (m : SlotMeta) (payload : Memory) (h : Nat) : Option (List Half) :=
  allDefined ((List.range (240 * h)).map fun k => bandPixel s m payload (k / 240) (k % 240))

/-! ## The commands -/

/-- One entry of a scale map (42_scaler R118, R119). -/
def mapEntry (map : List Byte) (index : Nat) (s : State) : Micro :=
  if 240 ≤ index then .raise .badOperand
  else
    match map[index]? with
    | some v => .done .ok (.index v) s
    | none => .raise .undef

/-- SCL_HMAP (42_scaler R118). -/
def execSclHmap (index : Half) (s : State) : Host.Outcome State Fault Refusal :=
  primitive (.sclHmap index) s (mapEntry s.hmap index.toNat s)

/-- SCL_VMAP (42_scaler R119). -/
def execSclVmap (index : Half) (s : State) : Host.Outcome State Fault Refusal :=
  primitive (.sclVmap index) s (mapEntry s.vmap index.toNat s)

def sclGeom (res : BitVec 2) (lc : BitVec 4) (y : Half) (s : State) : Micro :=
  match checkFlags s.cfg.maxLines (res ++ 0#2 ++ lc), widthOf res with
  | some c, _ => .done .malformed (.cause c) s
  | none, some w => .done .ok (.geom (geom s.cfg.outRows w y.toNat lc.toNat)) s
  | none, none => .done .malformed (.cause .resRsv) s

/-- SCL_GEOM (42_scaler R114). -/
def execSclGeom (res : BitVec 2) (lc : BitVec 4) (y : Half) (s : State) : Host.Outcome State Fault Refusal :=
  primitive (.sclGeom res lc y) s (sclGeom res lc y s)

/-- The geometry of a slot's band (42_scaler R120). -/
def slotGeom (c : Config) (m : SlotMeta) : Geom :=
  geom c.outRows m.srcWidth m.srcY0.toNat m.srcLineCount.toNat

/-- `SCL_BAND S` (42_scaler R120): the pixels go to the inactive buffer `OBUF[1 - ABI]`. -/
def sclBand (slot : Nat) (s : State) : Micro :=
  if !s.consumerHolds slot then .raise .badState
  else
    match s.slots[slot]? with
    | none => .raise .badState
    | some sl =>
      match sl.info with
      | none => .raise .undef
      | some m =>
        let g := slotGeom s.cfg m
        if g.verdict = .overflow then
          .done .overflow (.tooTall g.dstY0 g.dstLineCount)
            { s with cntOverflow := s.cntOverflow + 1#32, clatch := some { verdict := .overflow, y := 0#8, h := 0#8 } }
        else
          match bandPixels s m sl.payload g.h with
          | none => .raise .undef
          | some pixels =>
            .done g.verdict.code (.geom g)
              { s with
                obuf := s.obuf.set (!s.abi)
                  (Sparse.write (s.obuf.get (!s.abi)) 0 (pixels.flatMap (pixelBytes s.cfg.pixelOrder)))
                obufRows := s.obufRows.set (!s.abi) (BitVec.ofNat 8 g.h)
                clatch := some { verdict := g.verdict, y := BitVec.ofNat 8 g.y, h := BitVec.ofNat 8 g.h } }

/-- SCL_BAND (42_scaler R120). -/
def execSclBand (slot : BitVec 8) (s : State) : Host.Outcome State Fault Refusal :=
  primitive (.sclBand slot) s (sclBand slot.toNat s)

end Sys2Proof.Machine
end

