-- ==== Sys2Proof/Machine/Flags.lean ====
section
/-! DEFINITION. The words the registers read as (10_state R42 to R44), and the numbers of the codes a result carries
(30_encoding R85). BANDCODEC has no condition codes (10_state R26): its flag bits are those of STATUS. -/

namespace Sys2Proof.Machine

/-- The 2-bit encoding of a slot state (10_state R30). -/
def SlotState.code : SlotState → BitVec 2
  | .free => 0
  | .filling => 1
  | .ready => 2
  | .displaying => 3

/-- The number of a status code (30_encoding R85). -/
def Code.code : Code → BitVec 8
  | .ok => 0x00#8
  | .empty => 0x01#8
  | .exhausted => 0x02#8
  | .malformed => 0x03#8
  | .short => 0x04#8
  | .overflow => 0x05#8
  | .nodraw => 0x06#8
  | .halted => 0x07#8

/-- The number of a malformed subcause, `data.cause` (30_encoding R85). -/
def Subcause.code : Subcause → BitVec 8
  | .hdrShort => 1#8
  | .lcZero => 2#8
  | .lcOver => 3#8
  | .resRsv => 4#8
  | .cmodeRsv => 5#8

/-- The number a result carries: the status code (30_encoding R85) or the cause code (60_exceptions R155). -/
def Result.code : Result → BitVec 8
  | .status st => st.code.code
  | .fault c => c.code

/-- The number in `data.cause`, where the result has one: that of a MALFORMED status (30_encoding R85). -/
def Result.subcauseCode : Result → Option (BitVec 8)
  | .status ⟨_, .cause c⟩ => some c.code
  | _ => none

/-- One bit, 1 for true. -/
def flagBit (b : Bool) : BitVec 1 := BitVec.ofBool b

/-- A handle's index field in STATUS: the index, or 0 when the handle is `none` (10_state R43). -/
def handleIndex (h : Option Nat) : BitVec 8 :=
  match h with
  | some i => BitVec.ofNat 8 i
  | none => 0#8

/-- `STATUS` (10_state R43). -/
def statusWord (s : State) : Word :=
  0#7 ++ flagBit s.rxd.isSome ++ handleIndex s.ch ++ handleIndex s.ph ++ 0#3 ++ flagBit s.ch.isSome
    ++ flagBit s.ph.isSome ++ flagBit s.xfBusy ++ flagBit s.abi ++ flagBit (s.bstate = .halted)

/-- `XF_DESC` as CSR 0x028 (10_state R42). -/
def xfDescWord (d : XferDesc) : Word := 0#15 ++ flagBit d.buf ++ d.h ++ d.y

/-- `CFG_POLICY` (10_state R42). -/
def policyWord (c : Config) : Word :=
  0#23 ++ flagBit (c.pixelOrder = .le) ++ BitVec.ofNat 4 weight ++ 0#3 ++ flagBit (c.policy = .firstReady)

/-- The registers of 10_state R42 other than SLOT_STATE, by address. -/
def registerAt (s : State) (addr : Nat) : Option Word :=
  match addr with
  | 0x000 => some (BitVec.ofNat 32 s.cfg.slotCount)
  | 0x004 => some (BitVec.ofNat 32 s.cfg.maxLines)
  | 0x008 => some (BitVec.ofNat 32 outSide)
  | 0x00C => some (BitVec.ofNat 32 s.cfg.outRows)
  | 0x010 => some s.cfg.slotBytes
  | 0x014 => some (s.cfg.udpPort.setWidth 32)
  | 0x018 => some (policyWord s.cfg)
  | 0x020 => some (statusWord s)
  | 0x024 => some (s.faultCause.setWidth 32)
  | 0x028 => some (xfDescWord s.xfDesc)
  | 0x030 => some s.cntDrop
  | 0x034 => some s.cntMalformed
  | 0x038 => some s.cntShort
  | 0x03C => some s.cntOverflow
  | _ => none

end Sys2Proof.Machine
end

