-- ==== Sys2Proof/Machine/Transfer.lean ====
section
/-! DEFINITION. The transfer pump and the ENGINE (44_transfer.md). -/

namespace Sys2Proof.Machine

/-- The rectangle XFA_PUSH refuses with `F_BAD_OPERAND` (44_transfer R136). -/
def badRectangle (s : State) (y h : Nat) : Bool :=
  239 < y || h = 0 || 240 < y + h || s.cfg.outRows < h || (s.obufRows.get (!s.abi)).toNat < h

/-- `XFA_PUSH` (44_transfer R136), one atomic step; the panel rows pushed are `undef` from here until the retire (R139). -/
def xfaPush (y h : Nat) (s : State) : Micro :=
  if s.xfBusy then .raise .xferBusy
  else if badRectangle s y h then .raise .badOperand
  else
    .done .ok (.buf (!s.abi))
      { s with
        xfDesc := { y := BitVec.ofNat 8 y, h := BitVec.ofNat 8 h, buf := !s.abi }
        xfBusy := true
        abi := !s.abi
        panel := Sparse.erase s.panel (240 * y) (240 * h) }

/-- XFA_PUSH (44_transfer R136). -/
def execXfaPush (h : BitVec 8) (y : Half) (s : State) : Host.Outcome State Fault Refusal :=
  primitive (.xfaPush h y) s (xfaPush y.toNat h.toNat s)

/-- `XFA_WAIT` (44_transfer R137). -/
def xfaWait (s : State) : Micro :=
  if s.xfBusy then .hold else .done .ok .none s

/-- XFA_WAIT (44_transfer R137). -/
def execXfaWait (s : State) : Host.Outcome State Fault Refusal :=
  primitive .xfaWait s (xfaWait s)

/-- The last micro-step of a drain (44_transfer R140): push if the band is drawn, and report slot `i`. -/
def pushDrained (i : Nat) (s : State) : Micro :=
  match s.clatch with
  | none => .raise .undef
  | some l =>
    if l.verdict = .ok then
      match xfaPush l.y.toNat l.h.toNat s with
      | .done _ _ t => .done l.verdict.code (.drawn i l.y l.h) t
      | other => other
    else .done l.verdict.code (.drawn i l.y l.h) s

/-- The micro-steps of `XFA_DRAIN S` (44_transfer R140). -/
def drainStep (slot : Nat) (s : State) (k : Nat) : Micro :=
  match k with
  | 1 => if s.consumerHolds slot then .next none s else .raise .badState
  | 2 => if s.xfBusy then .hold else .next none s
  | 3 => perform (sclBand slot s)
  | 4 => perform (poolRelease slot s)
  | _ => pushDrained slot s

/-- XFA_DRAIN (44_transfer R140). -/
def execXfaDrain (slot : BitVec 8) (s : State) : Host.Outcome State Fault Refusal :=
  composite (.xfaDrain slot) s (drainStep slot.toNat s)

/-! ## The ENGINE -/

/-- The pixels of rows `0 .. h-1` of an output buffer (20_memory R50), none where a byte is `undef`. -/
def bufferPixels (o : ByteOrder) (m : Memory) (h : Nat) : Option (List Half) :=
  allDefined ((List.range (240 * h)).map fun k => readPixel o m (2 * k))

/-- The ENGINE's retire step (44_transfer R138), enabled exactly when `XF_BUSY = 1`, whatever `BSTATE` is. An `undef` byte,
which no run reaches (10_state R46), halts the block with `F_UNDEF` on no port (log entry 10). -/
def engineRetire (s : State) : Host.Outcome State Fault Refusal :=
  if !s.xfBusy then .next s
  else if 240 < s.xfDesc.y.toNat + s.xfDesc.h.toNat then .fault .outsidePanel
  else
    match bufferPixels s.cfg.pixelOrder (s.obuf.get s.xfDesc.buf) s.xfDesc.h.toNat with
    | none => .next (s.halt .undef)
    | some pixels =>
      .next { s with panel := Sparse.write s.panel (240 * s.xfDesc.y.toNat) pixels, xfBusy := false }

end Sys2Proof.Machine
end

