-- ==== Sys2Proof/Machine/Sequence.lean ====
section
/-! DEFINITION. The composite sequences, the register read-back and the TRANSPORT (45_sequences.md). -/

namespace Sys2Proof.Machine

/-- The PRODUCER discards the held datagram (45_sequences R145). -/
def dropDatagram (s : State) : State := { s with rxd := none }

/-- Micro-step 1 of `SEQ_INGEST` (45_sequences R145). -/
def ingestPoll (s : State) : Micro :=
  if s.ph ≠ none then .raise .badState
  else
    match s.rxq with
    | [] => .done .empty .none s
    | d :: rest => .next none { s with rxq := rest, rxd := some d }

/-- Micro-step 2: a malformed datagram is counted and discarded, "no slot touched". -/
def ingestCheck (s : State) : Micro :=
  match s.rxd with
  | none => .raise .badState
  | some d =>
    match headerOf s.cfg.maxLines d with
    | .error c =>
      .done .malformed (.cause c) (dropDatagram { s with cntMalformed := s.cntMalformed + 1#32 })
    | .ok _ => .next none s

/-- Micro-step 3: on EXHAUSTED, which POOL_ACQUIRE has counted, the datagram is discarded. -/
def ingestAcquire (s : State) : Micro :=
  match poolAcquire s with
  | .done .exhausted _ t => .done .exhausted .none (dropDatagram t)
  | m => perform m

/-- Micro-step 4. -/
def ingestFill (s : State) : Micro :=
  match s.ph with
  | none => .raise .badState
  | some i => perform (poolFill i s)

/-- What SEQ_INGEST reports of an accepted band: `{slot, frame_id, y_start}`. -/
def acceptedBand (i : Nat) (s : State) : Option Data :=
  ((s.slots[i]?).bind (·.info)).map fun m => .band i m.frameId m.srcY0

/-- Micro-step 5: commit after OK, else abort and return what step 4 returned, `SHORT {expected, avail}`. -/
def ingestEnd (s : State) : Micro :=
  match s.ph, s.portState.sub with
  | some i, some ⟨.ok, _⟩ =>
    match acceptedBand i s, poolCommit i s with
    | some band, .done _ _ t => .done .ok band (dropDatagram t)
    | none, .done _ _ _ => .raise .undef
    | _, other => other
  | some i, some ⟨code, data⟩ =>
    match poolAbort i s with
    | .done _ _ t => .done code data (dropDatagram t)
    | other => other
  | some _, none => .raise .undef
  | none, _ => .raise .badState

/-- The micro-steps of `SEQ_INGEST` (45_sequences R145). -/
def ingestStep (s : State) (k : Nat) : Micro :=
  match k with
  | 1 => ingestPoll s
  | 2 => ingestCheck s
  | 3 => ingestAcquire s
  | 4 => ingestFill s
  | _ => ingestEnd s

/-- SEQ_INGEST (45_sequences R145). -/
def execSeqIngest (s : State) : Host.Outcome State Fault Refusal :=
  composite .seqIngest s (ingestStep s)

/-- Micro-step 1 of `SEQ_CONSUME`: the status POOL_SELECT returned is kept for the last micro-step. -/
def consumeSelect (s : State) : Micro :=
  match poolSelect s with
  | .done .empty _ t => .done .empty .none t
  | m => perform m

/-- "perform C CH": `F_BAD_STATE` if the CONSUMER holds no slot. -/
def onHeldSlot (s : State) (body : Nat → Micro) : Micro :=
  match s.ch with
  | none => .raise .badState
  | some i => body i

/-- The slot SEQ_CONSUME selected at micro-step 1, which it reports at the end (45_sequences R147). -/
def consumeEnd (s : State) : Micro :=
  match s.portState.sub with
  | some ⟨_, .band i _ _⟩ => pushDrained i s
  | _ => .raise .undef

/-- The micro-steps of `SEQ_CONSUME` (45_sequences R147). -/
def consumeStep (s : State) (k : Nat) : Micro :=
  match k with
  | 1 => consumeSelect s
  | 2 => if s.xfBusy then .hold else .next s.portState.sub s
  | 3 => performKeeping s.portState.sub (onHeldSlot s fun i => sclBand i s)
  | 4 => performKeeping s.portState.sub (onHeldSlot s fun i => poolRelease i s)
  | _ => consumeEnd s

/-- SEQ_CONSUME (45_sequences R147). -/
def execSeqConsume (s : State) : Host.Outcome State Fault Refusal :=
  composite .seqConsume s (consumeStep s)

/-! ## Register read-back -/

/-- `CSR_READ A` (45_sequences R149). -/
def csrRead (addr : Nat) (s : State) : Micro :=
  if addr % 4 ≠ 0 then .raise .badCsr
  else
    match registerAt s addr with
    | some v => .done .ok (.value v) s
    | none =>
      if 0x400 ≤ addr ∧ (addr - 0x400) / 4 < s.cfg.slotCount then
        match s.slotState ((addr - 0x400) / 4) with
        | some st => .done .ok (.value (st.code.setWidth 32)) s
        | none => .raise .undef
      else .raise .badCsr

/-- CSR_READ (45_sequences R149). -/
def execCsrRead (addr : BitVec 12) (s : State) : Host.Outcome State Fault Refusal :=
  primitive (.csrRead addr) s (csrRead addr.toNat s)

/-! ## The TRANSPORT -/

/-- The TRANSPORT's step (45_sequences R152): the next datagram it delivers goes to the tail of RXQ. -/
def transportStep (s : State) : State :=
  match s.air with
  | [] => s
  | d :: rest => { s with rxq := s.rxq ++ [d], air := rest }

end Sys2Proof.Machine
end

