-- ==== Sys2Proof/Machine/Dispatch.lean ====
section
/-! DEFINITION. The meaning of each command: one arm per constructor of `Instr`. -/

namespace Sys2Proof.Machine

def exec (i : Instr) (s : State) : Host.Outcome State Fault Refusal :=
  match i with
  | .hdrDecode b0 b1 b2 b3 b4 => Sys2Proof.Machine.execHdrDecode b0 b1 b2 b3 b4 s
  | .hdrEncode fid y res cm lc => Sys2Proof.Machine.execHdrEncode fid y res cm lc s
  | .hdrCheckLen flags avail => Sys2Proof.Machine.execHdrCheckLen flags avail s
  | .rxPoll => Sys2Proof.Machine.execRxPoll s
  | .pxcExpand sample => Sys2Proof.Machine.execPxcExpand sample s
  | .pxcLookup sample => Sys2Proof.Machine.execPxcLookup sample s
  | .sclHmap index => Sys2Proof.Machine.execSclHmap index s
  | .sclVmap index => Sys2Proof.Machine.execSclVmap index s
  | .sclGeom res lc y => Sys2Proof.Machine.execSclGeom res lc y s
  | .sclBand slot => Sys2Proof.Machine.execSclBand slot s
  | .poolAcquire => Sys2Proof.Machine.execPoolAcquire s
  | .poolFill slot => Sys2Proof.Machine.execPoolFill slot s
  | .poolCommit slot => Sys2Proof.Machine.execPoolCommit slot s
  | .poolAbort slot => Sys2Proof.Machine.execPoolAbort slot s
  | .poolSelect => Sys2Proof.Machine.execPoolSelect s
  | .poolRelease slot => Sys2Proof.Machine.execPoolRelease slot s
  | .xfaWait => Sys2Proof.Machine.execXfaWait s
  | .xfaPush h y => Sys2Proof.Machine.execXfaPush h y s
  | .xfaDrain slot => Sys2Proof.Machine.execXfaDrain slot s
  | .csrRead addr => Sys2Proof.Machine.execCsrRead addr s
  | .seqIngest => Sys2Proof.Machine.execSeqIngest s
  | .seqConsume => Sys2Proof.Machine.execSeqConsume s

end Sys2Proof.Machine
end

