-- ==== Sys2Proof/WellFormed.lean ====
section
/-! DEFINITION. Well-formedness. A configuration has the bounds of 00_scope R7; a machine whose configuration fails them
is refused. A term of `Instr` needs no check: its operand widths are its types. -/

namespace Sys2Proof

/-- `1 ≤ N ≤ 256` (R7). -/
def Config.slotCountOk (c : Config) : Bool := 1 ≤ c.slotCount && c.slotCount ≤ 256

/-- `1 ≤ L ≤ 15` (R7). -/
def Config.maxLinesOk (c : Config) : Bool := 1 ≤ c.maxLines && c.maxLines ≤ 15

/-- `L ≤ OUT_ROWS ≤ 255` (R7). -/
def Config.outRowsOk (c : Config) : Bool := c.maxLines ≤ c.outRows && c.outRows ≤ 255

/-- `SLOT_BYTES ≥ 480 · L` (R7). -/
def Config.slotBytesOk (c : Config) : Bool := 480 * c.maxLines ≤ c.slotBytes.toNat

/-- "A configuration is well formed only if …" (R7). -/
def Config.wellFormed (c : Config) : Bool :=
  c.slotCountOk && c.maxLinesOk && c.outRowsOk && c.slotBytesOk

end Sys2Proof
end

