-- ==== Sys2Proof/Machine/Turn.lean ====
section
/-! DEFINITION. One turn of one agent (00_scope R3, R161). `run` is the meaning of a command. -/

namespace Sys2Proof.Machine

/-- Reset applied by the environment (70_reset_and_hazards R171, R172): everything the block holds is as after a fresh
start; what the world outside has still to deliver stays (log entry 14). -/
def State.again (s : State) (allocOk : Bool) : State :=
  { State.resetWith s.cfg allocOk with turns := s.turns, cmdq := s.cmdq, air := s.air }

/-- An idle port takes the next command delivered to it (30_encoding R74), and the command's first micro-step is done. A
command not yet delivered whole is not taken (log entry 15). Checks 1 and 2 of the preamble (60_exceptions R160) stand
here for words that are no command. -/
def acceptCommand (run : Instr → State → Host.Outcome State Fault Refusal) (s : State) :
    Host.Outcome State Fault Refusal :=
  match s.cmdq.get s.issuer with
  | [] => .next s
  | w0 :: rest =>
    if rest.length + 1 < commandLength w0 then .next s
    else
      let t := { s with cmdq := s.cmdq.set s.issuer ((w0 :: rest).drop (commandLength w0)) }
      if t.bstate = .halted && !performedHalted (opcodeOf w0) then .next (t.finish .halted .none)
      else
        match decode (w0 :: rest) with
        | .error _ => .next (t.faultEntry .illegalCmd)
        | .ok (i, _) => run i t

/-- A turn of a command port: the next micro-step of its command, or the next command (10_state R21). -/
def portTurn (run : Instr → State → Host.Outcome State Fault Refusal) (p : Port) (s : State) :
    Host.Outcome State Fault Refusal :=
  let t := { s with issuer := p }
  match (t.port.get p).cmd with
  | some i => run i t
  | none => acceptCommand run t

/-- The agent whose turn it is moves. -/
def moveAgent (run : Instr → State → Host.Outcome State Fault Refusal) (t : Turn) (s : State) :
    Host.Outcome State Fault Refusal :=
  match t with
  | .port p => portTurn run p s
  | .engine => engineRetire s
  | .transport => .next (transportStep s)
  | .reset allocOk => .next (s.again allocOk)

/-- One step: a machine with an ill-formed configuration takes none (00_scope R7); else the first of the turns is taken.
With no turn left nothing moves (log entry 4). -/
def takeTurn (run : Instr → State → Host.Outcome State Fault Refusal) (s : State) : Host.Outcome State Fault Refusal :=
  if !s.cfg.wellFormed then .refused .illFormedConfig
  else
    match s.turns with
    | [] => .next s
    | t :: rest => moveAgent run t { s with turns := rest }

/-- The instruction of `ws` becomes the next command of a port that may issue it, that port is idle, and it moves next. -/
def State.placeCommand (s : State) (ws : List Word) : State :=
  let p := match decode ws with
    | .ok (i, _) => somePort i
    | .error _ => .host
  { s with
    turns := .port p :: s.turns
    port := s.port.set p .idle
    cmdq := s.cmdq.set p (ws ++ s.cmdq.get p) }

end Sys2Proof.Machine
end

