-- ==== Sys2Proof/Machine/Step.lean ====
section
/-! DEFINITION. The step of the whole machine, and the placing of an instruction where the next step takes it. -/

namespace Sys2Proof.Machine

/-- One atomic step of the agent whose turn it is (00_scope R3, R161). -/
def step (s : State) : Host.Outcome State Fault Refusal := takeTurn exec s

/-- `s` with the instruction whose bits are `w` delivered to an idle port that may issue it, and that port to move next.
It stands for the issuer's delivery of a command (log entry 5). -/
def State.withFetchWord (s : State) (nbits w : Nat) : State := s.placeCommand (wordsOf nbits w)

end Sys2Proof.Machine
end

