-- ==== Sys2Proof/Safety.lean ====
section
/-! DEFINITION. What counts as a sound state of BANDCODEC, in the terms the claims use: the invariants of 10_state R45,
with what they need to be kept by every step. Every state a run from reset reaches is to be sound. -/

namespace Sys2Proof.Safety

open Sys2Proof.Machine

/-- `FAULT_CAUSE` "holds 0 (no fault) or one of the codes" (60_exceptions R155), and the block is halted exactly when it
holds one (R156; 70_reset_and_hazards R177). -/
def FaultRecordOk (s : State) : Prop :=
  (s.faultCause = 0#8 ∨ ∃ c : Cause, s.faultCause = c.code) ∧ (s.bstate = .halted ↔ s.faultCause ≠ 0#8)

/-- Every data space is in canonical form and lists only addresses that exist (20_memory R48). -/
def SpacesOk (s : State) : Prop :=
  (∀ sl ∈ s.slots, Memory.wf sl.payload ∧ ∀ kv ∈ sl.payload, kv.1 < s.cfg.slotBytes.toNat) ∧
  (∀ b, Memory.wf (s.obuf.get b) ∧ ∀ kv ∈ s.obuf.get b, kv.1 < 480 * s.cfg.outRows) ∧
  Sparse.wf s.panel ∧ ∀ kv ∈ s.panel, kv.1 < 57600

/-- The pool has `N` slots; `PH` names the slot in `Filling` and `CH` the one in `Displaying`, if there is one (10_state
R45; 43_pool R132). -/
def HoldersOk (s : State) : Prop :=
  s.slots.length = s.cfg.slotCount ∧
  (∀ i, s.ph = some i ↔ s.slotState i = some .filling) ∧
  ∀ i, s.ch = some i ↔ s.slotState i = some .displaying

/-- The slot holds the whole of an accepted band: its metadata, and payload bytes `0 .. E-1` (10_state R45). -/
def HoldsBand (c : Config) (sl : Slot) : Prop :=
  ∃ m, sl.info = some m ∧ 1 ≤ m.srcLineCount.toNat ∧ m.srcLineCount.toNat ≤ c.maxLines ∧
    ∀ k < payloadBytes m.srcWidth m.srcLineCount.toNat m.isFullDepth, (Sparse.read sl.payload k).isSome

/-- "no partial payload is ever observed as `Ready`" (43_pool R125; 10_state R45). -/
def BandsOk (s : State) : Prop :=
  ∀ sl ∈ s.slots, sl.state = .ready ∨ sl.state = .displaying ∨ (sl.state = .filling ∧ sl.filled = true) →
    HoldsBand s.cfg sl

/-- The rows `OBUF_ROWS` names are written (10_state R38), and a transfer in flight reads such rows of the active buffer
(10_state R45). -/
def TransferOk (s : State) : Prop :=
  (s.xfBusy = true → s.xfDesc.buf = s.abi ∧ 1 ≤ s.xfDesc.h.toNat ∧
    s.xfDesc.h.toNat ≤ (s.obufRows.get s.abi).toNat ∧ s.xfDesc.y.toNat + s.xfDesc.h.toNat ≤ 240) ∧
  ∀ b, (s.obufRows.get b).toNat ≤ s.cfg.outRows ∧
    ∀ k < 480 * (s.obufRows.get b).toNat, (Sparse.read (s.obuf.get b) k).isSome

/-- While the block runs the three tables are as reset built them (10_state R34 to R36). -/
def TablesOk (s : State) : Prop :=
  s.bstate = .run → s.lut = builtLut s.cfg ∧ s.hmap = builtMap ∧ s.vmap = builtMap

/-- What holds of the PRODUCER between the micro-steps of SEQ_INGEST (45_sequences R145). -/
def IngestOk (s : State) (k : Nat) (sub : Option Status) : Prop :=
  match k with
  | 2 => s.ph = none ∧ s.rxd.isSome
  | 3 => s.ph = none ∧ ∃ d h, s.rxd = some d ∧ headerOf s.cfg.maxLines d = .ok h
  | 4 => ∃ i d h, s.ph = some i ∧ (s.slots[i]?).any (·.filled) = false ∧ s.rxd = some d ∧
      headerOf s.cfg.maxLines d = .ok h
  | 5 => ∃ i st, s.ph = some i ∧ sub = some st ∧ (st.code = .ok → (s.slots[i]?).any (·.filled) = true)
  | _ => False

/-- The latched band may be pushed (44_transfer R136, R140). -/
def LatchOk (s : State) : Prop :=
  ∃ l, s.clatch = some l ∧ (l.verdict = .ok → 1 ≤ l.h.toNat ∧ l.y.toNat + l.h.toNat ≤ 240 ∧
    l.h.toNat ≤ s.cfg.outRows ∧ l.h.toNat ≤ (s.obufRows.get (!s.abi)).toNat)

/-- What holds of the CONSUMER between the micro-steps of a drain of slot `i` (44_transfer R140). -/
def DrainOk (s : State) (i k : Nat) : Prop :=
  match k with
  | 2 => s.ch = some i
  | 3 => s.ch = some i ∧ s.xfBusy = false
  | 4 => s.ch = some i ∧ s.xfBusy = false ∧ LatchOk s
  | 5 => s.xfBusy = false ∧ LatchOk s
  | _ => False

/-- The PRODUCER's port is idle or in a SEQ_INGEST (10_state R21). -/
def ProducerOk (s : State) : Prop :=
  s.port.producer = .idle ∨
    (s.port.producer.cmd = some .seqIngest ∧ IngestOk s s.port.producer.step s.port.producer.sub)

/-- The CONSUMER's port is idle, holds in an XFA_WAIT, or is in a drain (10_state R21). -/
def ConsumerOk (s : State) : Prop :=
  s.port.consumer = .idle ∨
  (s.port.consumer.cmd = some .xfaWait ∧ s.port.consumer.step = 1) ∨
  (∃ slot, s.port.consumer.cmd = some (.xfaDrain slot) ∧ DrainOk s slot.toNat s.port.consumer.step) ∨
  (s.port.consumer.cmd = some .seqConsume ∧
    ∃ code i fid y, s.port.consumer.sub = some ⟨code, .band i fid y⟩ ∧ DrainOk s i s.port.consumer.step)

/-- The HOST's port is idle: its commands have one micro-step and never hold (60_exceptions R165; 10_state R21). -/
def HostOk (s : State) : Prop := s.port.host = .idle

/-- A sound state. -/
structure Sound (s : State) : Prop where
  config : s.cfg.wellFormed = true
  faultRecord : FaultRecordOk s
  spaces : SpacesOk s
  holders : HoldersOk s
  bands : BandsOk s
  transfer : TransferOk s
  tables : TablesOk s
  producer : ProducerOk s
  consumer : ConsumerOk s
  host : HostOk s

/-- A slot in state `st` that holds the band of header `h` with this payload (43_pool R124). -/
def slotOfBand (st : SlotState) (h : Header) (payload : Memory) : Slot where
  state := st
  filled := true
  info := some { frameId := h.frameId, srcY0 := h.yStart, srcWidth := h.sourceWidth,
                 srcLineCount := h.lineCount.setWidth 8, isFullDepth := h.isFullDepth }
  payload := payload

/-- `n` micro-steps of a command on the issuing port with no other agent stepping in between (45_sequences R151). -/
def runMicroSteps (i : Instr) : Nat → State → Option State
  | 0, s => some s
  | n + 1, s =>
    match exec i s with
    | .next t => runMicroSteps i n t
    | _ => none

/-- Two states that differ at most in what the issuing port has in progress and has returned. -/
def SameBlock (s t : State) : Prop :=
  t = { s with
    port := s.port.set s.issuer (t.port.get s.issuer)
    result := s.result.set s.issuer (t.result.get s.issuer) }

/-- Only the issuing port and, where the command faults, the fault record differ. -/
def OnlyPortAndFault (s t : State) : Prop :=
  t = { s with
    bstate := t.bstate
    faultCause := t.faultCause
    port := s.port.set s.issuer (t.port.get s.issuer)
    result := s.result.set s.issuer (t.result.get s.issuer) }

end Sys2Proof.Safety
end

