-- ==== Sys2Proof/Certificates/Slice0/Obligations.lean ====
section
/-! DEFINITION. The statements for the provers. Each docstring names the rules of spec/ it rests on. A next state written
as `{ s with … }`, or as an update of `s` by an operation of Machine/Ops.lean, is the statement's frame: every other field,
and every byte of every memory, is that of `s`. -/

open Sys2Proof Sys2Proof.Machine Sys2Proof.Safety

/-! ## Encoding -/

/-- Words written out from the formats of 30_encoding R75 to R83 (those of 95_test_vectors) decode to the commands they
stand for, one or more of every format. -/
def Obligations.WrittenWordsDecode : Prop :=
  decode [0x10040000#32, 0x00000001#32] = .ok (.hdrDecode 0x00#8 0x01#8 0x00#8 0x00#8 0x04#8, []) ∧
  decode [0x1196000A#32, 0x00000007#32] = .ok (.hdrEncode 7#16 10#16 2#2 1#2 6#4, []) ∧
  decode [0x129602D0#32] = .ok (.hdrCheckLen 0x96#8 720#16, []) ∧
  decode [0x13000000#32] = .ok (.rxPoll, []) ∧
  decode [0x20000078#32] = .ok (.pxcExpand 0x78#8, []) ∧
  decode [0x300000ED#32] = .ok (.sclHmap 237#16, []) ∧
  decode [0x32860073#32] = .ok (.sclGeom 2#2 6#4 115#16, []) ∧
  decode [0x41020000#32] = .ok (.poolFill 2#8, []) ∧
  decode [0x510C0014#32] = .ok (.xfaPush 12#8 20#16, []) ∧
  decode [0x60000404#32] = .ok (.csrRead 0x404#12, []) ∧
  decode [0x71000000#32] = .ok (.seqConsume, [])

/-- Decoding the words of a command gives the command back, whatever words follow: no bit of an operand is dropped. -/
def Obligations.DecodeOfEncode : Prop :=
  ∀ (i : Instr) (rest : List Word), decode (encode i ++ rest) = .ok (i, rest)

/-- Words that decode are the words of the command they decode to: every must-be-zero bit is 0 and no two words mean
one command (30_encoding R75 to R84). -/
def Obligations.EncodeOfDecode : Prop :=
  ∀ (ws rest : List Word) (i : Instr), decode ws = .ok (i, rest) → encode i ++ rest = ws

/-- An opcode that 30_encoding R83 does not list is rejected as reserved (R84). -/
def Obligations.ReservedOpcodesRejected : Prop :=
  ∀ (w0 : Word) (rest : List Word),
    w0.extractLsb' 24 8 ∉ [0x10#8, 0x11#8, 0x12#8, 0x13#8, 0x20#8, 0x21#8, 0x30#8, 0x31#8, 0x32#8, 0x33#8, 0x40#8, 0x41#8,
      0x42#8, 0x43#8, 0x44#8, 0x45#8, 0x50#8, 0x51#8, 0x52#8, 0x60#8, 0x70#8, 0x71#8] →
    decode (w0 :: rest) = .error (.reservedOpcode (w0.extractLsb' 24 8))

/-- A command delivered whole to a running block that does not decode raises `F_ILLEGAL_CMD` on its port
(30_encoding R84; 60_exceptions R160). The words it takes from the queue are the model's account of delivery (log entries 5,
15). -/
def Obligations.IllegalCommandFaults : Prop :=
  ∀ (s : State) (p : Port) (turns : List Turn) (w0 : Word) (more : List Word) (e : Reject),
    s.cfg.wellFormed = true → s.bstate = .run → s.turns = .port p :: turns → s.port.get p = .idle →
    s.cmdq.get p = w0 :: more → commandLength w0 ≤ more.length + 1 → decode (w0 :: more) = .error e →
    step s = .next (State.faultEntry
      { s with turns := turns, issuer := p, cmdq := s.cmdq.set p ((w0 :: more).drop (commandLength w0)) } .illegalCmd)

/-! ## The step -/

/-- A STEP RUNS THE DECODED INSTRUCTION: at the turn of an idle port whose delivered words decode to `i`, the step is
`exec i` with the words taken from the queue, the turn spent and the port named as the issuer (10_state R21; 30_encoding
R74). That a list of turns and queues of delivered words say what moves next is the model's (log entries 4, 5). -/
def Obligations.StepRunsDecodedCommand : Prop :=
  ∀ (s : State) (p : Port) (turns : List Turn) (i : Instr) (rest : List Word),
    s.cfg.wellFormed = true → s.turns = .port p :: turns → s.port.get p = .idle →
    decode (s.cmdq.get p) = .ok (i, rest) →
    step s = exec i { s with turns := turns, issuer := p, cmdq := s.cmdq.set p rest }

/-- A command in progress is resumed at its port's turn, and the port takes no other command (10_state R21; the list of
turns is the model's, log entry 4). -/
def Obligations.StepResumesCommand : Prop :=
  ∀ (s : State) (p : Port) (turns : List Turn) (i : Instr),
    s.cfg.wellFormed = true → s.turns = .port p :: turns → (s.port.get p).cmd = some i →
    step s = exec i { s with turns := turns, issuer := p }

/-- A machine is refused exactly when its configuration breaks a bound of 00_scope R7, and in a well-formed one the payload
of every accepted header fits its slot. -/
def Obligations.IllFormedConfigurationRefused : Prop :=
  (∀ c : Config, c.wellFormed = true ↔
    (1 ≤ c.slotCount ∧ c.slotCount ≤ 256 ∧ 1 ≤ c.maxLines ∧ c.maxLines ≤ 15 ∧ c.maxLines ≤ c.outRows ∧
      c.outRows ≤ 255 ∧ 480 * c.maxLines ≤ c.slotBytes.toNat)) ∧
  (∀ s : State, step s = .refused .illFormedConfig ↔ s.cfg.wellFormed = false) ∧
  ∀ (c : Config) (b0 b1 b2 b3 b4 : Byte) (h : Header), c.wellFormed = true →
    decodeHeader c.maxLines b0 b1 b2 b3 b4 = .ok h → h.expected ≤ c.slotBytes.toNat

/-- The turns of the environment: the TRANSPORT appends its next datagram to RXQ (45_sequences R152), reset is a fresh
start that depends on the configuration and `ALLOC_OK` alone, but for what the world outside still has to deliver
(70_reset_and_hazards R171, R172; log entry 14 is the model's choice of what stays), and with no turn nothing moves (the
model's choice, log entry 4). -/
def Obligations.EnvironmentTurns : Prop :=
  (∀ (s : State) (turns : List Turn) (d : Datagram) (more : List Datagram),
    s.cfg.wellFormed = true → s.turns = .transport :: turns → s.air = d :: more →
    step s = .next { s with turns := turns, rxq := s.rxq ++ [d], air := more }) ∧
  (∀ (s : State) (turns : List Turn) (ok : Bool),
    s.cfg.wellFormed = true → s.turns = .reset ok :: turns →
    step s = .next { State.resetWith s.cfg ok with turns := turns, cmdq := s.cmdq, air := s.air }) ∧
  ∀ s : State, s.cfg.wellFormed = true → s.turns = [] → step s = .next s

/-! ## The preamble, halting and faults -/

/-- A halted block answers HALTED to every command but CSR_READ, whatever micro-step it is at, and changes nothing else; to
every word delivered to an idle port too, if it is no command at all, unless its opcode is CSR_READ's: a CSR_READ word with
a 1 in its must-be-zero field raises `F_ILLEGAL_CMD`, and the first cause is kept (60_exceptions R157, R160). The words it
takes from the queue are the model's account of delivery (log entries 5, 15). -/
def Obligations.HaltedBlockTurnsCommandsAway : Prop :=
  (∀ (i : Instr) (s : State), s.bstate = .halted → (∀ a, i ≠ .csrRead a) → exec i s = .next (s.finish .halted .none)) ∧
  ∀ (s : State) (p : Port) (turns : List Turn) (w0 : Word) (more : List Word),
    s.cfg.wellFormed = true → s.bstate = .halted → s.turns = .port p :: turns → s.port.get p = .idle →
    s.cmdq.get p = w0 :: more → commandLength w0 ≤ more.length + 1 →
    let u := { s with turns := turns, issuer := p, cmdq := s.cmdq.set p ((w0 :: more).drop (commandLength w0)) }
    (w0.extractLsb' 24 8 ≠ 0x60#8 → step s = .next (State.finish u .halted .none)) ∧
    (w0.extractLsb' 24 8 = 0x60#8 → ∀ e, decode (w0 :: more) = .error e →
      step s = .next (State.faultEntry u .illegalCmd) ∧
      (s.faultCause ≠ 0#8 → (State.faultEntry u .illegalCmd).faultCause = s.faultCause))

/-- A command on a port that 30_encoding R83 does not list for it raises `F_WRONG_AGENT`, and a command listed for any port
never does (R86). -/
def Obligations.UnlistedPortFaults : Prop :=
  ∀ (i : Instr) (s : State), s.bstate = .run → s.portState = .idle →
    (exec i s = .next (s.faultEntry .wrongAgent) ↔
      (i.opcode ∈ [0x13#8, 0x40#8, 0x41#8, 0x42#8, 0x43#8, 0x70#8] ∧ s.issuer ≠ .producer) ∨
      (i.opcode ∈ [0x33#8, 0x44#8, 0x45#8, 0x50#8, 0x51#8, 0x52#8, 0x71#8] ∧ s.issuer ≠ .consumer))

/-- A slot operand `S ≥ N` raises `F_BAD_SLOT`, in each command of format FS, after the port check (30_encoding R76;
60_exceptions R160). -/
def Obligations.SlotOutOfRangeFaults : Prop :=
  ∀ (s : State) (slot : BitVec 8), s.bstate = .run → s.portState = .idle → s.cfg.slotCount ≤ slot.toNat →
    (s.issuer = .consumer → exec (.sclBand slot) s = .next (s.faultEntry .badSlot) ∧
      exec (.poolRelease slot) s = .next (s.faultEntry .badSlot) ∧
      exec (.xfaDrain slot) s = .next (s.faultEntry .badSlot)) ∧
    (s.issuer = .producer → exec (.poolFill slot) s = .next (s.faultEntry .badSlot) ∧
      exec (.poolCommit slot) s = .next (s.faultEntry .badSlot) ∧
      exec (.poolAbort slot) s = .next (s.faultEntry .badSlot))

/-- Fault entry (60_exceptions R156): whatever command returns a fault, it has recorded the cause if it is the first,
halted the block, freed its port, and written nothing else. -/
def Obligations.FaultEntryIsPrecise : Prop :=
  ∀ (i : Instr) (s t : State) (c : Cause), exec i s = .next t → s.lastResult ≠ some (.fault c) →
    t.lastResult = some (.fault c) →
    t = { s with
      faultCause := if s.faultCause = 0#8 then c.code else s.faultCause
      bstate := .halted
      port := s.port.set s.issuer { cmd := none, step := 0, sub := none }
      result := s.result.set s.issuer (some (.fault c)) }

/-- `BSTATE` is never cleared and the first fault cause never lost, except by reset (10_state R22, R23). -/
def Obligations.HaltIsKept : Prop :=
  ∀ s t : State, step s = .next t → (∀ ok turns, s.turns ≠ .reset ok :: turns) →
    (s.bstate = .halted → t.bstate = .halted) ∧ (s.faultCause ≠ 0#8 → t.faultCause = s.faultCause)

/-! ## HDR unit -/

/-- HDR_DECODE answers the first failing test of 40_codec R90, or the header with every field of R92, and writes nothing
but its port (R93). -/
def Obligations.HdrDecodeAnswers : Prop :=
  ∀ (s : State) (b0 b1 b2 b3 b4 : Byte), s.bstate = .run →
    let lc := (b4.extractLsb' 0 4).toNat
    let res := (b4.extractLsb' 6 2).toNat
    let cm := (b4.extractLsb' 4 2).toNat
    exec (.hdrDecode b0 b1 b2 b3 b4) s = .next (
      if lc = 0 then s.finish .malformed (.cause .lcZero)
      else if s.cfg.maxLines < lc then s.finish .malformed (.cause .lcOver)
      else if res = 3 then s.finish .malformed (.cause .resRsv)
      else if 2 ≤ cm then s.finish .malformed (.cause .cmodeRsv)
      else s.finish .ok (.header {
        frameId := b0 ++ b1, yStart := b2 ++ b3, resolution := b4.extractLsb' 6 2, colorMode := b4.extractLsb' 4 2,
        lineCount := b4.extractLsb' 0 4
        sourceWidth := if res = 0 then .w240 else if res = 1 then .w180 else .w120
        bytesPerPixel := if cm = 0 then 2 else 1
        isFullDepth := cm = 0
        expected := (if res = 0 then 240 else if res = 1 then 180 else 120) * lc * (if cm = 0 then 2 else 1) }))

/-- HDR_ENCODE answers the five bytes of 40_codec R94 for every field value, and writes nothing but its port (R95). -/
def Obligations.HdrEncodeAnswers : Prop :=
  ∀ (s : State) (fid y : Half) (res cm : BitVec 2) (lc : BitVec 4), s.bstate = .run →
    exec (.hdrEncode fid y res cm lc) s = .next (s.finish .ok (.bytes
      [fid.extractLsb' 8 8, fid.extractLsb' 0 8, y.extractLsb' 8 8, y.extractLsb' 0 8, res ++ cm ++ lc]))

/-- The header round trip of 40_codec R99, both laws, for every `L`. -/
def Obligations.HeaderRoundTrip : Prop :=
  (∀ (maxLines : Nat) (fid y : Half) (res cm : BitVec 2) (lc : BitVec 4),
    res.toNat ≤ 2 → cm.toNat ≤ 1 → 1 ≤ lc.toNat → lc.toNat ≤ maxLines →
    ∃ h, headerOf maxLines (encodeHeader fid y res cm lc) = .ok h ∧ h.frameId = fid ∧ h.yStart = y ∧
      h.resolution = res ∧ h.colorMode = cm ∧ h.lineCount = lc) ∧
  ∀ (maxLines : Nat) (b0 b1 b2 b3 b4 : Byte) (h : Header), headerOf maxLines [b0, b1, b2, b3, b4] = .ok h →
    encodeHeader h.frameId h.yStart h.resolution h.colorMode h.lineCount = [b0, b1, b2, b3, b4]

/-- HDR_CHECK_LEN compares the available bytes with the expected payload, after the header tests (40_codec R96), and writes
nothing but its port. -/
def Obligations.HdrCheckLenAnswers : Prop :=
  ∀ (s : State) (flags : Byte) (avail : Half), s.bstate = .run →
    let lc := (flags.extractLsb' 0 4).toNat
    let res := (flags.extractLsb' 6 2).toNat
    let cm := (flags.extractLsb' 4 2).toNat
    let expected := (if res = 0 then 240 else if res = 1 then 180 else 120) * lc * (if cm = 0 then 2 else 1)
    exec (.hdrCheckLen flags avail) s = .next (
      if lc = 0 then s.finish .malformed (.cause .lcZero)
      else if s.cfg.maxLines < lc then s.finish .malformed (.cause .lcOver)
      else if res = 3 then s.finish .malformed (.cause .resRsv)
      else if 2 ≤ cm then s.finish .malformed (.cause .cmodeRsv)
      else if avail.toNat < expected then s.finish .short (.lacks expected avail.toNat)
      else s.finish .ok (.fits expected (avail.toNat - expected)))

/-- RX_POLL moves the head of RXQ into RXD, or answers EMPTY and writes nothing but its port (40_codec R98). -/
def Obligations.RxPollAnswers : Prop :=
  ∀ s : State, s.bstate = .run → s.issuer = .producer →
    (s.rxq = [] → exec .rxPoll s = .next (s.finish .empty .none)) ∧
    ∀ d rest, s.rxq = d :: rest →
      exec .rxPoll s = .next (State.finish { s with rxq := rest, rxd := some d } .ok (.length d.length))

/-! ## PXC unit -/

/-- PXC_EXPAND answers EXPAND(s) and writes nothing but its port (41_pixel R105). That the default EXPAND is this bit
replication and this layout is PRESUMED (log entry 3): the spec marks both as general knowledge (R101). -/
def Obligations.PxcExpandAnswers : Prop :=
  ∀ (s : State) (sample : Byte), s.bstate = .run →
    exec (.pxcExpand sample) s = .next (s.finish .ok (.pixel (expandPixel s.cfg sample))) ∧
    (s.cfg.expand = .replicate →
      (expandPixel s.cfg sample).toNat =
        (sample.toNat / 32 * 4 + sample.toNat / 32 / 2) * 2048 + sample.toNat / 4 % 8 * 9 * 32 +
          (sample.toNat % 4 * 10 + sample.toNat % 4 / 2))

/-- With the table as reset builds it, PXC_LOOKUP answers for every sample what PXC_EXPAND answers (41_pixel R102, R106),
and writes nothing but its port. -/
def Obligations.PxcLookupAnswers : Prop :=
  ∀ (s : State) (sample : Byte), s.bstate = .run → s.lut = builtLut s.cfg →
    exec (.pxcLookup sample) s = .next (s.finish .ok (.pixel (expandPixel s.cfg sample)))

/-! ## SCL unit -/

/-- The scale maps reset builds (42_scaler R107, R108). -/
def Obligations.ScaleMapLaws : Prop :=
  builtMap.length = 240 ∧
  (∀ k < 60, builtMap[4 * k]? = some (BitVec.ofNat 8 (3 * k)) ∧ builtMap[4 * k + 1]? = some (BitVec.ofNat 8 (3 * k + 1)) ∧
    builtMap[4 * k + 2]? = some (BitVec.ofNat 8 (3 * k + 2)) ∧ builtMap[4 * k + 3]? = some (BitVec.ofNat 8 (3 * k + 2))) ∧
  (∀ (i j : Nat) (a b : Byte), i ≤ j → builtMap[i]? = some a → builtMap[j]? = some b →
    a.toNat ≤ b.toNat ∧ b.toNat ≤ 179) ∧
  ∀ v < 180, ∃ i : Nat, builtMap[i]? = some (BitVec.ofNat 8 v)

/-- SCL_HMAP and SCL_VMAP answer entry `I` of the built maps, `(3 · I + 2) / 4`, and write nothing but their port; an index
of 240 or more raises `F_BAD_OPERAND` (42_scaler R118, R119). -/
def Obligations.MapCommandsAnswer : Prop :=
  ∀ (s : State) (index : Half), s.bstate = .run →
    (index.toNat < 240 → s.hmap = builtMap →
      exec (.sclHmap index) s = .next (s.finish .ok (.index (BitVec.ofNat 8 ((3 * index.toNat + 2) / 4))))) ∧
    (index.toNat < 240 → s.vmap = builtMap →
      exec (.sclVmap index) s = .next (s.finish .ok (.index (BitVec.ofNat 8 ((3 * index.toNat + 2) / 4))))) ∧
    (240 ≤ index.toNat → exec (.sclHmap index) s = .next (s.faultEntry .badOperand) ∧
      exec (.sclVmap index) s = .next (s.faultEntry .badOperand))

/-- SCL_GEOM answers the geometry of 42_scaler R109 to R113, branch by branch, or the first failing test of the header, and
writes nothing but its port (R114). -/
def Obligations.SclGeomAnswers : Prop :=
  ∀ (s : State) (res : BitVec 2) (lc : BitVec 4) (y : Half), s.bstate = .run →
    (lc.toNat = 0 → exec (.sclGeom res lc y) s = .next (s.finish .malformed (.cause .lcZero))) ∧
    (s.cfg.maxLines < lc.toNat → exec (.sclGeom res lc y) s = .next (s.finish .malformed (.cause .lcOver))) ∧
    (1 ≤ lc.toNat → lc.toNat ≤ s.cfg.maxLines → res.toNat = 3 →
      exec (.sclGeom res lc y) s = .next (s.finish .malformed (.cause .resRsv))) ∧
    (1 ≤ lc.toNat → lc.toNat ≤ s.cfg.maxLines → res.toNat ≤ 2 →
      ∃ g : Geom, exec (.sclGeom res lc y) s = .next (s.finish .ok (.geom g)) ∧
        (res.toNat = 0 → g.dstY0 = y.toNat ∧ g.dstLineCount = lc.toNat) ∧
        (res.toNat = 1 → g.dstY0 = (4 * y.toNat + 1) / 3 ∧ g.dstLineCount = (4 * lc.toNat + 2) / 3) ∧
        (res.toNat = 2 → g.dstY0 = 2 * y.toNat ∧ g.dstLineCount = min (2 * lc.toNat) (240 - 2 * y.toNat)) ∧
        (s.cfg.outRows < g.dstLineCount → g.verdict = .overflow ∧ g.y = 0 ∧ g.h = 0) ∧
        (g.dstLineCount ≤ s.cfg.outRows → g.h = min g.dstLineCount (240 - g.dstY0) ∧
          g.verdict = (if g.h = 0 then .nodraw else .ok) ∧ g.y = if g.h = 0 then 0 else g.dstY0))

/-- Every band with verdict OK lies on the raster and in the buffer (42_scaler R112), and with `OUT_ROWS = 2 · L` no band
of an accepted header overflows (R110, R111). -/
def Obligations.GeometryStaysOnTheRaster : Prop :=
  ∀ (outRows maxLines y0 lc : Nat) (w : SrcWidth),
    ((geom outRows w y0 lc).verdict = .ok →
      (geom outRows w y0 lc).y ≤ 239 ∧ 1 ≤ (geom outRows w y0 lc).h ∧ (geom outRows w y0 lc).h ≤ outRows ∧
        (geom outRows w y0 lc).h ≤ 240 - (geom outRows w y0 lc).y) ∧
    (lc ≤ maxLines → (geom (2 * maxLines) w y0 lc).verdict ≠ .overflow)

/-- SCL_BAND on a held slot with a whole band and built tables: rows `0 .. h-1` of the inactive buffer get the band's
pixels (42_scaler R116: source row `r`, `min(map180 r, lc - 1)` or `r / 2`; source column `c`, `map180 c` or `c / 2`), each
read as R115 says, every other address of that buffer reads as before, OBUF_ROWS and CLATCH are written, and nothing else
but the port changes (R120). -/
def Obligations.SclBandDraws : Prop :=
  ∀ (s : State) (slot : BitVec 8) (sl : Slot) (m : SlotMeta),
    s.bstate = .run → s.issuer = .consumer → slot.toNat < s.cfg.slotCount → s.cfg.wellFormed = true →
    s.ch = some slot.toNat → s.slots[slot.toNat]? = some sl → sl.state = .displaying → sl.info = some m →
    HoldsBand s.cfg sl → s.lut = builtLut s.cfg → s.hmap = builtMap → s.vmap = builtMap →
    (slotGeom s.cfg m).verdict ≠ .overflow →
    ∃ t : State, exec (.sclBand slot) s = .next t ∧
      (∀ r c : Nat, r < (slotGeom s.cfg m).h → c < 240 →
        ∃ sr sc p,
          (m.srcWidth = .w240 → sr = r ∧ sc = c) ∧
          (m.srcWidth = .w180 → sr = min ((3 * r + 2) / 4) (m.srcLineCount.toNat - 1) ∧ sc = (3 * c + 2) / 4) ∧
          (m.srcWidth = .w120 → sr = r / 2 ∧ sc = c / 2) ∧
          (m.isFullDepth = true →
            readPixel s.cfg.pixelOrder sl.payload (2 * (m.srcWidth.samples * sr + sc)) = some p) ∧
          (m.isFullDepth = false →
            (Sparse.read sl.payload (m.srcWidth.samples * sr + sc)).map (expandPixel s.cfg) = some p) ∧
          readPixel s.cfg.pixelOrder (t.obuf.get (!s.abi)) (2 * (240 * r + c)) = some p) ∧
      (∀ a, 480 * (slotGeom s.cfg m).h ≤ a →
        Sparse.read (t.obuf.get (!s.abi)) a = Sparse.read (s.obuf.get (!s.abi)) a) ∧
      t = State.finish
        { s with
          obuf := s.obuf.set (!s.abi) (t.obuf.get (!s.abi))
          obufRows := s.obufRows.set (!s.abi) (BitVec.ofNat 8 (slotGeom s.cfg m).h)
          clatch := some { verdict := (slotGeom s.cfg m).verdict, y := BitVec.ofNat 8 (slotGeom s.cfg m).y,
                           h := BitVec.ofNat 8 (slotGeom s.cfg m).h } }
        (if (slotGeom s.cfg m).verdict = .ok then .ok else .nodraw) (.geom (slotGeom s.cfg m))

/-- SCL_BAND on a band taller than the buffer counts it, latches OVERFLOW and writes no buffer byte; on a slot the CONSUMER
does not hold in `Displaying` it raises `F_BAD_STATE` (42_scaler R120). -/
def Obligations.SclBandRejects : Prop :=
  ∀ (s : State) (slot : BitVec 8), s.bstate = .run → s.issuer = .consumer → slot.toNat < s.cfg.slotCount →
    (∀ sl m, s.ch = some slot.toNat → s.slots[slot.toNat]? = some sl → sl.state = .displaying → sl.info = some m →
      (slotGeom s.cfg m).verdict = .overflow →
      exec (.sclBand slot) s = .next (State.finish
        { s with cntOverflow := s.cntOverflow + 1#32, clatch := some { verdict := .overflow, y := 0#8, h := 0#8 } }
        .overflow (.tooTall (slotGeom s.cfg m).dstY0 (slotGeom s.cfg m).dstLineCount))) ∧
    ((s.ch ≠ some slot.toNat ∨ s.slotState slot.toNat ≠ some .displaying) →
      exec (.sclBand slot) s = .next (s.faultEntry .badState))

/-- A full-depth 240-wide band that lies on the raster is copied byte for byte, for either byte order (42_scaler R117;
20_memory R56). -/
def Obligations.IdentityBandCopiesThePayload : Prop :=
  ∀ (s : State) (slot : BitVec 8) (sl : Slot) (m : SlotMeta),
    s.bstate = .run → s.issuer = .consumer → slot.toNat < s.cfg.slotCount → s.cfg.wellFormed = true →
    s.ch = some slot.toNat → s.slots[slot.toNat]? = some sl → sl.state = .displaying → sl.info = some m →
    HoldsBand s.cfg sl → m.srcWidth = .w240 → m.isFullDepth = true →
    m.srcY0.toNat + m.srcLineCount.toNat ≤ 240 →
    ∃ t : State, exec (.sclBand slot) s = .next t ∧
      ∀ k < 480 * m.srcLineCount.toNat,
        (Sparse.read (t.obuf.get (!s.abi)) k).isSome ∧ Sparse.read (t.obuf.get (!s.abi)) k = Sparse.read sl.payload k

/-- The scaled bands (42_scaler R117): where the 120 branch does not truncate, every 2×2 block is four copies of one
converted source pixel; in the 180 branch every destination pixel is some source pixel of the band and every source column
appears in every row. -/
def Obligations.ScaledBandsCopySourcePixels : Prop :=
  ∀ (s : State) (m : SlotMeta) (payload : Memory), 1 ≤ m.srcLineCount.toNat →
    s.hmap = builtMap → s.vmap = builtMap →
    (m.srcWidth = .w120 → ∀ a b : Nat, a < m.srcLineCount.toNat → b < 120 →
      bandPixel s m payload (2 * a) (2 * b) = srcPix s m payload a b ∧
      bandPixel s m payload (2 * a) (2 * b + 1) = srcPix s m payload a b ∧
      bandPixel s m payload (2 * a + 1) (2 * b) = srcPix s m payload a b ∧
      bandPixel s m payload (2 * a + 1) (2 * b + 1) = srcPix s m payload a b) ∧
    (m.srcWidth = .w180 → ∀ r < 240,
      (∀ c < 240, ∃ sr sc, sr < m.srcLineCount.toNat ∧ sc < 180 ∧ bandPixel s m payload r c = srcPix s m payload sr sc) ∧
      ∀ sc < 180, ∃ c sr, c < 240 ∧ sr < m.srcLineCount.toNat ∧ bandPixel s m payload r c = srcPix s m payload sr sc)

/-! ## Pool and selection -/

/-- POOL_ACQUIRE claims the `Free` slot of lowest index, or counts one drop and answers EXHAUSTED, or, when the PRODUCER
holds a slot, raises `F_BAD_STATE` (43_pool R123). -/
def Obligations.PoolAcquireAnswers : Prop :=
  ∀ s : State, s.bstate = .run → s.issuer = .producer →
    (∀ k, s.ph = none → s.slotState k = some .free → (∀ j < k, s.slotState j ≠ some .free) →
      exec .poolAcquire s = .next (State.finish
        { s with slots := s.slots.modify k (fun sl => { sl with state := .filling, filled := false }), ph := some k }
        .ok (.slot k))) ∧
    (s.ph = none → (∀ k, s.slotState k ≠ some .free) →
      exec .poolAcquire s = .next (State.finish { s with cntDrop := s.cntDrop + 1#32 } .exhausted .none)) ∧
    (s.ph ≠ none → exec .poolAcquire s = .next (s.faultEntry .badState))

/-- POOL_FILL on the slot the PRODUCER holds, not filled yet, with a datagram held: MALFORMED and SHORT copy nothing, OK
copies exactly the expected bytes after the header and latches the five fields and the filled mark; RXD is kept. In every
other case it raises `F_BAD_STATE` (43_pool R124; 40_codec R97). -/
def Obligations.PoolFillAnswers : Prop :=
  ∀ (s : State) (slot : BitVec 8), s.bstate = .run → s.issuer = .producer → slot.toNat < s.cfg.slotCount →
    (∀ (sl : Slot) (d : Datagram), s.ph = some slot.toNat → s.slots[slot.toNat]? = some sl → sl.state = .filling →
      sl.filled = false → s.rxd = some d →
      (∀ c, headerOf s.cfg.maxLines d = .error c →
        exec (.poolFill slot) s = .next (s.finish .malformed (.cause c))) ∧
      (∀ h, headerOf s.cfg.maxLines d = .ok h → d.length - 5 < h.expected →
        exec (.poolFill slot) s = .next (State.finish { s with cntShort := s.cntShort + 1#32 } .short
          (.lacks h.expected (d.length - 5)))) ∧
      (∀ h, headerOf s.cfg.maxLines d = .ok h → h.expected ≤ d.length - 5 → h.expected ≤ s.cfg.slotBytes.toNat →
        ∃ payload : Memory,
          (∀ k, Sparse.read payload k = if k < h.expected then d[5 + k]? else Sparse.read sl.payload k) ∧
          exec (.poolFill slot) s = .next (State.finish
            { s with slots := s.slots.set slot.toNat (slotOfBand .filling h payload) }
            .ok (.fits h.expected (d.length - 5 - h.expected))))) ∧
    ((s.ph ≠ some slot.toNat ∨ s.slotState slot.toNat ≠ some .filling ∨
        (∃ sl, s.slots[slot.toNat]? = some sl ∧ sl.filled = true) ∨ s.rxd = none) →
      exec (.poolFill slot) s = .next (s.faultEntry .badState))

/-- POOL_COMMIT publishes the slot the PRODUCER holds once it is filled, and raises `F_BAD_STATE` in every other case
(43_pool R125). -/
def Obligations.PoolCommitAnswers : Prop :=
  ∀ (s : State) (slot : BitVec 8), s.bstate = .run → s.issuer = .producer → slot.toNat < s.cfg.slotCount →
    (∀ sl, s.ph = some slot.toNat → s.slots[slot.toNat]? = some sl → sl.state = .filling → sl.filled = true →
      exec (.poolCommit slot) s = .next (State.finish
        { s with slots := s.slots.set slot.toNat { sl with state := .ready }, ph := none } .ok (.slot slot.toNat))) ∧
    ((s.ph ≠ some slot.toNat ∨ s.slotState slot.toNat ≠ some .filling ∨
        ∃ sl, s.slots[slot.toNat]? = some sl ∧ sl.filled = false) →
      exec (.poolCommit slot) s = .next (s.faultEntry .badState))

/-- POOL_ABORT and POOL_RELEASE free the slot their port holds, and raise `F_BAD_STATE` on any other; no counter changes
(43_pool R126, R131). -/
def Obligations.AbortAndReleaseFreeTheSlot : Prop :=
  ∀ (s : State) (slot : BitVec 8), s.bstate = .run → slot.toNat < s.cfg.slotCount →
    (s.issuer = .producer →
      (∀ sl, s.ph = some slot.toNat → s.slots[slot.toNat]? = some sl → sl.state = .filling →
        exec (.poolAbort slot) s = .next (State.finish
          { s with slots := s.slots.set slot.toNat { sl with state := .free, filled := false }, ph := none }
          .ok (.slot slot.toNat))) ∧
      (s.ph ≠ some slot.toNat ∨ s.slotState slot.toNat ≠ some .filling →
        exec (.poolAbort slot) s = .next (s.faultEntry .badState))) ∧
    (s.issuer = .consumer →
      (∀ sl, s.ch = some slot.toNat → s.slots[slot.toNat]? = some sl → sl.state = .displaying →
        exec (.poolRelease slot) s = .next (State.finish
          { s with slots := s.slots.set slot.toNat { sl with state := .free }, ch := none }
          .ok (.slot slot.toNat))) ∧
      (s.ch ≠ some slot.toNat ∨ s.slotState slot.toNat ≠ some .displaying →
        exec (.poolRelease slot) s = .next (s.faultEntry .badState)))

/-- The selection (43_pool R127 to R129): in a pool whose `Ready` slots have their metadata, `none` when no slot is
`Ready`; else, under WEIGHTED, the least index among those with the least key `src_y0 + 2 · frame_id`, and under
FIRST_READY the least index. That the formula is followed where the example of R130 contradicts it is the model's choice
(log entry 21). -/
def Obligations.SelectionIsLeastKey : Prop :=
  ∀ (c : Config) (slots : List Slot), (∀ sl ∈ slots, sl.state = .ready → sl.info.isSome) →
    ∃ r, selectSlot c slots = some r ∧
      (r = none ↔ ∀ sl ∈ slots, sl.state ≠ .ready) ∧
      ∀ k, r = some k →
        ∃ sl m, slots[k]? = some sl ∧ sl.state = .ready ∧ sl.info = some m ∧
          (c.policy = .weighted → ∀ j slj mj, slots[j]? = some slj → slj.state = .ready → slj.info = some mj →
            m.srcY0.toNat + 2 * m.frameId.toNat ≤ mj.srcY0.toNat + 2 * mj.frameId.toNat ∧
            (j < k → m.srcY0.toNat + 2 * m.frameId.toNat < mj.srcY0.toNat + 2 * mj.frameId.toNat)) ∧
          (c.policy = .firstReady → ∀ j < k, ∀ slj, slots[j]? = some slj → slj.state ≠ .ready)

/-- POOL_SELECT moves the selected slot to `Displaying` and holds it, or answers EMPTY and writes nothing but its port, or,
when the CONSUMER holds a slot, raises `F_BAD_STATE` (43_pool R130). -/
def Obligations.PoolSelectAnswers : Prop :=
  ∀ s : State, s.bstate = .run → s.issuer = .consumer →
    (∀ k sl m, s.ch = none → selectSlot s.cfg s.slots = some (some k) → s.slots[k]? = some sl → sl.info = some m →
      exec .poolSelect s = .next (State.finish
        { s with slots := s.slots.set k { sl with state := .displaying }, ch := some k }
        .ok (.band k m.frameId m.srcY0))) ∧
    (s.ch = none → (∀ k, s.slotState k ≠ some .ready) → exec .poolSelect s = .next (s.finish .empty .none)) ∧
    (s.ch ≠ none → exec .poolSelect s = .next (s.faultEntry .badState))

/-! ## Transfer -/

/-- XFA_PUSH of a rectangle inside the raster whose rows SCL_BAND wrote: XF_DESC, XF_BUSY and ABI are written and the
pushed panel rows become `undef` (44_transfer R136, R139); a transfer in flight raises `F_XFER_BUSY`, any other rectangle
`F_BAD_OPERAND`. -/
def Obligations.XfaPushAnswers : Prop :=
  ∀ (s : State) (h : BitVec 8) (y : Half), s.bstate = .run → s.issuer = .consumer →
    (s.xfBusy = false → y.toNat ≤ 239 → 1 ≤ h.toNat → y.toNat + h.toNat ≤ 240 → h.toNat ≤ s.cfg.outRows →
      h.toNat ≤ (s.obufRows.get (!s.abi)).toNat →
      ∃ panel : Raster,
        (∀ a, Sparse.read panel a =
          if 240 * y.toNat ≤ a ∧ a < 240 * (y.toNat + h.toNat) then none else Sparse.read s.panel a) ∧
        exec (.xfaPush h y) s = .next (State.finish
          { s with xfDesc := { y := y.setWidth 8, h := h, buf := !s.abi }, xfBusy := true, abi := !s.abi, panel := panel }
          .ok (.buf (!s.abi)))) ∧
    (s.xfBusy = true → exec (.xfaPush h y) s = .next (s.faultEntry .xferBusy)) ∧
    (s.xfBusy = false → (239 < y.toNat ∨ h.toNat = 0 ∨ 240 < y.toNat + h.toNat ∨ s.cfg.outRows < h.toNat ∨
        (s.obufRows.get (!s.abi)).toNat < h.toNat) →
      exec (.xfaPush h y) s = .next (s.faultEntry .badOperand))

/-- XFA_WAIT completes at once when no transfer is in flight, and holds, its port busy, while one is (44_transfer R137; that a
hold leaves the port at its micro-step and the turn passes is the model's, log entry 13). -/
def Obligations.XfaWaitAnswers : Prop :=
  ∀ s : State, s.bstate = .run → s.issuer = .consumer →
    (s.xfBusy = false → exec .xfaWait s = .next (s.finish .ok .none)) ∧
    (s.xfBusy = true → exec .xfaWait s = .next
      { s with port := s.port.set .consumer { cmd := some .xfaWait, step := 1, sub := s.port.consumer.sub } })

/-- The ENGINE's retire step (44_transfer R138), whatever BSTATE is: the rows of the descriptor take the pixels of its
buffer, every other panel pixel reads as before, XF_BUSY is cleared, and nothing else changes; with no transfer in flight
it changes nothing (that such a turn passes is the model's, log entry 4). -/
def Obligations.RetireWritesThePanel : Prop :=
  ∀ (s : State) (turns : List Turn), s.cfg.wellFormed = true → s.turns = .engine :: turns →
    (s.xfBusy = true → s.xfDesc.y.toNat + s.xfDesc.h.toNat ≤ 240 →
      (∀ k < 480 * s.xfDesc.h.toNat, (Sparse.read (s.obuf.get s.xfDesc.buf) k).isSome) →
      ∃ panel : Raster, step s = .next { s with turns := turns, panel := panel, xfBusy := false } ∧
        (∀ r c : Nat, r < s.xfDesc.h.toNat → c < 240 →
          (Sparse.read panel (240 * (s.xfDesc.y.toNat + r) + c)).isSome ∧
          Sparse.read panel (240 * (s.xfDesc.y.toNat + r) + c) =
            readPixel s.cfg.pixelOrder (s.obuf.get s.xfDesc.buf) (2 * (240 * r + c))) ∧
        ∀ a, a < 240 * s.xfDesc.y.toNat ∨ 240 * (s.xfDesc.y.toNat + s.xfDesc.h.toNat) ≤ a →
          Sparse.read panel a = Sparse.read s.panel a) ∧
    (s.xfBusy = false → step s = .next { s with turns := turns })

/-- A wait ends once the ENGINE has retired: from a held XFA_WAIT with a transfer in flight, an ENGINE turn and then a
CONSUMER turn complete it with OK (44_transfer R137, R138, R144). -/
def Obligations.WaitEndsAfterRetire : Prop :=
  ∀ (s : State) (turns : List Turn), Sound s → s.bstate = .run → s.xfBusy = true →
    s.turns = .engine :: .port .consumer :: turns → s.port.consumer.cmd = some .xfaWait →
    ∃ t u : State, step s = .next t ∧ t.xfBusy = false ∧ t.port.consumer = s.port.consumer ∧
      step t = .next u ∧ u.port.consumer = .idle ∧ u.result.consumer = some (.status ⟨.ok, .none⟩) ∧ u.turns = turns

/-- XFA_DRAIN of a slot the CONSUMER does not hold in `Displaying` raises `F_BAD_STATE` at its first micro-step. On the held
slot its first micro-step completes and changes nothing but the port; with no transfer in flight
its five micro-steps complete, release the slot, push an OK band and end with the band's verdict (that they write what
`SCL_BAND`, `POOL_RELEASE` and `XFA_PUSH` write is `DrainEqualsPrimitives`), and write nothing of the active buffer, of
another port or of the PRODUCER; while a transfer is in flight micro-step 2 holds (44_transfer R140; log entry 13 says how
the model holds). -/
def Obligations.XfaDrainAnswers : Prop :=
  ∀ (s : State) (slot : BitVec 8),
    s.bstate = .run → s.issuer = .consumer → s.portState = .idle → slot.toNat < s.cfg.slotCount →
    ((s.ch ≠ some slot.toNat ∨ s.slotState slot.toNat ≠ some .displaying) →
      exec (.xfaDrain slot) s = .next (s.faultEntry .badState)) ∧
    (s.ch = some slot.toNat → s.slotState slot.toNat = some .displaying →
      exec (.xfaDrain slot) s = .next (s.setPortState { cmd := some (.xfaDrain slot), step := 2, sub := none }) ∧
      (s.xfBusy = true → runMicroSteps (.xfaDrain slot) 2 s =
        some (s.setPortState { cmd := some (.xfaDrain slot), step := 2, sub := none }))) ∧
    ∀ (sl : Slot) (m : SlotMeta), s.ch = some slot.toNat → s.slots[slot.toNat]? = some sl → sl.state = .displaying →
      sl.info = some m → HoldsBand s.cfg sl → s.cfg.wellFormed = true → s.lut = builtLut s.cfg → s.hmap = builtMap →
      s.vmap = builtMap → s.xfBusy = false →
      ∃ t : State, runMicroSteps (.xfaDrain slot) 5 s = some t ∧ t.portState = .idle ∧
        t.lastResult = some (.status ⟨(slotGeom s.cfg m).verdict.code,
          .drawn slot.toNat (BitVec.ofNat 8 (slotGeom s.cfg m).y) (BitVec.ofNat 8 (slotGeom s.cfg m).h)⟩) ∧
        t.ch = none ∧ t.slots = s.slots.set slot.toNat { sl with state := .free } ∧
        ((slotGeom s.cfg m).verdict = .ok → t.xfBusy = true ∧ t.abi = !s.abi ∧ t.xfDesc =
          { y := BitVec.ofNat 8 (slotGeom s.cfg m).y, h := BitVec.ofNat 8 (slotGeom s.cfg m).h, buf := !s.abi }) ∧
        ((slotGeom s.cfg m).verdict ≠ .ok → t.xfBusy = false ∧ t.abi = s.abi ∧ t.xfDesc = s.xfDesc ∧
          t.panel = s.panel) ∧
        t = { s with
          port := s.port.set .consumer .idle, result := s.result.set .consumer t.lastResult, ch := none
          slots := t.slots, xfBusy := t.xfBusy, abi := t.abi, xfDesc := t.xfDesc, panel := t.panel, clatch := t.clatch
          cntOverflow := t.cntOverflow, obuf := s.obuf.set (!s.abi) (t.obuf.get (!s.abi))
          obufRows := s.obufRows.set (!s.abi) (t.obufRows.get (!s.abi)) }

/-- The composite drain and its primitives end in the same block state: `xfa.drain s` against `xfa.wait; scl.band s;
pool.release s` followed, when the band is drawn, by `xfa.push` of the latched rows (45_sequences R151). -/
def Obligations.DrainEqualsPrimitives : Prop :=
  ∀ (s : State) (slot : BitVec 8) (sl : Slot) (m : SlotMeta),
    s.bstate = .run → s.issuer = .consumer → s.portState = .idle → slot.toNat < s.cfg.slotCount →
    s.cfg.wellFormed = true → s.xfBusy = false → s.ch = some slot.toNat → s.slots[slot.toNat]? = some sl →
    sl.state = .displaying → sl.info = some m → HoldsBand s.cfg sl → s.lut = builtLut s.cfg → s.hmap = builtMap →
    s.vmap = builtMap →
    ∃ t u1 u2 u3 : State, runMicroSteps (.xfaDrain slot) 5 s = some t ∧
      exec .xfaWait s = .next u1 ∧ exec (.sclBand slot) u1 = .next u2 ∧ exec (.poolRelease slot) u2 = .next u3 ∧
      ((slotGeom s.cfg m).verdict = .ok → ∃ u4, exec (.xfaPush (BitVec.ofNat 8 (slotGeom s.cfg m).h)
        (BitVec.ofNat 16 (slotGeom s.cfg m).y)) u3 = .next u4 ∧ SameBlock u4 t) ∧
      ((slotGeom s.cfg m).verdict ≠ .ok → SameBlock u3 t)

/-! ## Sequences and register read-back -/

/-- The five outcomes of SEQ_INGEST, with no other agent stepping in between, each with its counter, its effect on the pool
and RXD afterwards, and nothing else but the port changed; when the PRODUCER holds a slot, the first micro-step raises
`F_BAD_STATE` instead (45_sequences R145, R146). -/
def Obligations.SeqIngestOutcomes : Prop :=
  ∀ s : State, s.bstate = .run → s.issuer = .producer → s.portState = .idle →
    (s.ph ≠ none → exec .seqIngest s = .next (s.faultEntry .badState)) ∧
    (s.ph = none → s.rxq = [] → exec .seqIngest s = .next (s.finish .empty .none)) ∧
    ∀ d rest, s.ph = none → s.rxq = d :: rest →
      exec .seqIngest s = .next (State.setPortState { s with rxq := rest, rxd := some d }
        { cmd := some .seqIngest, step := 2, sub := none }) ∧
      (∀ c, headerOf s.cfg.maxLines d = .error c → runMicroSteps .seqIngest 2 s = some (State.finish
        { s with rxq := rest, rxd := none, cntMalformed := s.cntMalformed + 1#32 } .malformed (.cause c))) ∧
      (∀ h, headerOf s.cfg.maxLines d = .ok h → (∀ k, s.slotState k ≠ some .free) →
        runMicroSteps .seqIngest 3 s = some (State.finish
          { s with rxq := rest, rxd := none, cntDrop := s.cntDrop + 1#32 } .exhausted .none)) ∧
      (∀ h k sl, headerOf s.cfg.maxLines d = .ok h → s.slots[k]? = some sl → sl.state = .free →
        (∀ j < k, s.slotState j ≠ some .free) → d.length - 5 < h.expected →
        runMicroSteps .seqIngest 5 s = some (State.finish
          { s with rxq := rest, rxd := none, cntShort := s.cntShort + 1#32,
                   slots := s.slots.set k { sl with state := .free, filled := false } }
          .short (.lacks h.expected (d.length - 5)))) ∧
      (∀ h k sl, headerOf s.cfg.maxLines d = .ok h → s.slots[k]? = some sl → sl.state = .free →
        (∀ j < k, s.slotState j ≠ some .free) → h.expected ≤ d.length - 5 → h.expected ≤ s.cfg.slotBytes.toNat →
        ∃ payload : Memory,
          (∀ a, Sparse.read payload a = if a < h.expected then d[5 + a]? else Sparse.read sl.payload a) ∧
          runMicroSteps .seqIngest 5 s = some (State.finish
            { s with rxq := rest, rxd := none, slots := s.slots.set k (slotOfBand .ready h payload) }
            .ok (.band k h.frameId h.yStart)))

/-- SEQ_CONSUME, whether or not a transfer is in flight: `F_BAD_STATE` when the CONSUMER holds a slot; EMPTY when no slot is
`Ready`; else its first micro-step selects a slot. Micro-step 2 then holds while a transfer is in flight (log entry 13 says
how the model holds). With none in flight its five micro-steps drain the slot and end with the band's verdict and that
slot's index, in the very state `POOL_SELECT` followed by the five micro-steps of `XFA_DRAIN` of the selected slot ends in
(45_sequences R147, R151). -/
def Obligations.SeqConsumeOutcomes : Prop :=
  ∀ s : State, s.bstate = .run → s.issuer = .consumer → s.portState = .idle →
    (s.ch ≠ none → exec .seqConsume s = .next (s.faultEntry .badState)) ∧
    (s.ch = none → (∀ k, s.slotState k ≠ some .ready) → exec .seqConsume s = .next (s.finish .empty .none)) ∧
    ∀ k sl m, s.ch = none → selectSlot s.cfg s.slots = some (some k) → s.slots[k]? = some sl → sl.info = some m →
      let selected := State.setPortState
        { s with slots := s.slots.set k { sl with state := .displaying }, ch := some k }
        { cmd := some .seqConsume, step := 2, sub := some ⟨.ok, .band k m.frameId m.srcY0⟩ }
      exec .seqConsume s = .next selected ∧
      (s.xfBusy = true → runMicroSteps .seqConsume 2 s = some selected) ∧
      (s.xfBusy = false → s.cfg.wellFormed = true → s.lut = builtLut s.cfg → s.hmap = builtMap → s.vmap = builtMap →
        HoldsBand s.cfg sl → k < s.cfg.slotCount →
        ∃ t u : State, runMicroSteps .seqConsume 5 s = some t ∧
          exec .poolSelect s = .next u ∧ runMicroSteps (.xfaDrain (BitVec.ofNat 8 k)) 5 u = some t ∧
          t.lastResult = some (.status ⟨(slotGeom s.cfg m).verdict.code,
            .drawn k (BitVec.ofNat 8 (slotGeom s.cfg m).y) (BitVec.ofNat 8 (slotGeom s.cfg m).h)⟩) ∧
          t.portState = .idle ∧ t.ch = none ∧ t.slots = s.slots.set k { sl with state := .free } ∧
          ((slotGeom s.cfg m).verdict = .ok → t.xfBusy = true ∧ t.abi = !s.abi ∧ t.xfDesc =
            { y := BitVec.ofNat 8 (slotGeom s.cfg m).y, h := BitVec.ofNat 8 (slotGeom s.cfg m).h, buf := !s.abi }) ∧
          ((slotGeom s.cfg m).verdict ≠ .ok → t.xfBusy = false ∧ t.abi = s.abi ∧ t.xfDesc = s.xfDesc ∧ t.panel = s.panel))

/-- CSR_READ answers every register of 10_state R42 at its address and every slot state of the pool, running or halted, and
writes nothing but its port; a misaligned or unmapped address raises `F_BAD_CSR` (45_sequences R149). -/
def Obligations.CsrReadAnswers : Prop :=
  ∀ s : State,
    (∀ (a : BitVec 12) (v : Word),
      (a, v) ∈ [(0x000#12, BitVec.ofNat 32 s.cfg.slotCount), (0x004#12, BitVec.ofNat 32 s.cfg.maxLines), (0x008#12, 240#32),
        (0x00C#12, BitVec.ofNat 32 s.cfg.outRows), (0x010#12, s.cfg.slotBytes), (0x014#12, s.cfg.udpPort.setWidth 32),
        (0x018#12, (if s.cfg.policy = .firstReady then 1#32 else 0#32) + 0x20#32 +
          (if s.cfg.pixelOrder = .le then 0x100#32 else 0#32)),
        (0x020#12, statusWord s), (0x024#12, s.faultCause.setWidth 32),
        (0x028#12, s.xfDesc.y.setWidth 32 + (s.xfDesc.h.setWidth 32 <<< 8) + (if s.xfDesc.buf then 0x10000#32 else 0#32)),
        (0x030#12, s.cntDrop), (0x034#12, s.cntMalformed), (0x038#12, s.cntShort), (0x03C#12, s.cntOverflow)] →
      exec (.csrRead a) s = .next (s.finish .ok (.value v))) ∧
    (∀ (a : BitVec 12) (k : Nat) (st : SlotState), a.toNat = 0x400 + 4 * k → k < s.cfg.slotCount →
      s.slotState k = some st →
      exec (.csrRead a) s = .next (s.finish .ok (.value
        (match st with | .free => 0#32 | .filling => 1#32 | .ready => 2#32 | .displaying => 3#32)))) ∧
    ∀ a : BitVec 12, (a.toNat % 4 ≠ 0 ∨ a ∈ [0x01C#12, 0x02C#12] ∨ (0x040 ≤ a.toNat ∧ a.toNat < 0x400) ∨
        0x400 + 4 * s.cfg.slotCount ≤ a.toNat) →
      exec (.csrRead a) s = .next (s.faultEntry .badCsr)

/-- The bits of STATUS (10_state R43). -/
def Obligations.StatusWordBits : Prop :=
  ∀ s : State,
    ((statusWord s).getLsbD 0 = true ↔ s.bstate = .halted) ∧ (statusWord s).getLsbD 1 = s.abi ∧
    (statusWord s).getLsbD 2 = s.xfBusy ∧ (statusWord s).getLsbD 3 = s.ph.isSome ∧
    (statusWord s).getLsbD 4 = s.ch.isSome ∧ (statusWord s).getLsbD 24 = s.rxd.isSome ∧
    (∀ i, s.ph = some i → i < 256 → ((statusWord s).extractLsb' 8 8).toNat = i) ∧
    (s.ph = none → (statusWord s).extractLsb' 8 8 = 0#8) ∧
    (∀ i, s.ch = some i → i < 256 → ((statusWord s).extractLsb' 16 8).toNat = i) ∧
    (s.ch = none → (statusWord s).extractLsb' 16 8 = 0#8) ∧
    (statusWord s).extractLsb' 5 3 = 0#3 ∧ (statusWord s).extractLsb' 25 7 = 0#7

/-! ## What commands leave alone -/

/-- The pure commands and CSR_READ change nothing but their port and, when they fault, the fault record (00_scope R13;
20_memory R60). -/
def Obligations.PureCommandsChangeNothing : Prop :=
  ∀ (i : Instr) (s t : State),
    i.opcode ∈ [0x10#8, 0x11#8, 0x12#8, 0x20#8, 0x21#8, 0x30#8, 0x31#8, 0x32#8, 0x60#8] →
    exec i s = .next t → OnlyPortAndFault s t

/-- No command on the HOST port changes anything but that port and the fault record (60_exceptions R165: "The HOST port has
no rights the others lack"). -/
def Obligations.HostChangesNothing : Prop :=
  ∀ (i : Instr) (s t : State), s.issuer = .host → s.portState = .idle → exec i s = .next t → OnlyPortAndFault s t

/-- A command of the PRODUCER leaves the CONSUMER's and the ENGINE's state alone, and one of the CONSUMER the PRODUCER's and
the TRANSPORT's; each writes no slot but those it holds or claims (43_pool R122, R132). -/
def Obligations.PortsWriteOnlyTheirOwn : Prop :=
  ∀ (i : Instr) (s t : State), exec i s = .next t →
    (allowedOn i .producer = true →
      t.ch = s.ch ∧ t.abi = s.abi ∧ t.xfBusy = s.xfBusy ∧ t.xfDesc = s.xfDesc ∧ t.clatch = s.clatch ∧
      t.cntOverflow = s.cntOverflow ∧ t.obuf = s.obuf ∧ t.obufRows = s.obufRows ∧ t.panel = s.panel ∧
      ∀ k : Nat, s.ph ≠ some k → t.ph ≠ some k → t.slots[k]? = s.slots[k]?) ∧
    (allowedOn i .consumer = true →
      t.ph = s.ph ∧ t.rxq = s.rxq ∧ t.rxd = s.rxd ∧ t.cntDrop = s.cntDrop ∧ t.cntMalformed = s.cntMalformed ∧
      t.cntShort = s.cntShort ∧ ∀ k : Nat, s.ch ≠ some k → t.ch ≠ some k → t.slots[k]? = s.slots[k]?) ∧
    (∀ p : Port, p ≠ s.issuer → t.port.get p = s.port.get p ∧ t.result.get p = s.result.get p)

/-- A slot's state changes only by the five transitions of 43_pool R121, each by its command or a composite through it, and
no slot is added or removed. -/
def Obligations.SlotTransitionsAreTheFive : Prop :=
  ∀ (i : Instr) (s t : State), exec i s = .next t →
    t.slots.length = s.slots.length ∧
    ∀ (k : Nat) (a b : SlotState), s.slotState k = some a → t.slotState k = some b →
      a = b ∨
      (a = .free ∧ b = .filling ∧ i.opcode ∈ [0x40#8, 0x70#8]) ∨
      (a = .filling ∧ b = .ready ∧ i.opcode ∈ [0x42#8, 0x70#8]) ∨
      (a = .filling ∧ b = .free ∧ i.opcode ∈ [0x43#8, 0x70#8]) ∨
      (a = .ready ∧ b = .displaying ∧ i.opcode ∈ [0x44#8, 0x71#8]) ∨
      (a = .displaying ∧ b = .free ∧ i.opcode ∈ [0x45#8, 0x52#8, 0x71#8])

/-- LUT, HMAP and VMAP are written by reset alone (20_memory R51): no step but a reset changes them. No command writes
them or the configuration (10_state R42). That no command writes `turns`, `cmdq`, `air` and `issuer` either is about the
model's own fields (log entries 4, 5, 6, 7). -/
def Obligations.TablesAndConfigurationKept : Prop :=
  (∀ s t : State, step s = .next t → (∀ ok turns, s.turns ≠ .reset ok :: turns) →
    t.lut = s.lut ∧ t.hmap = s.hmap ∧ t.vmap = s.vmap ∧ t.cfg = s.cfg) ∧
  ∀ (i : Instr) (s t : State), exec i s = .next t →
    t.lut = s.lut ∧ t.hmap = s.hmap ∧ t.vmap = s.vmap ∧ t.cfg = s.cfg ∧ t.turns = s.turns ∧ t.cmdq = s.cmdq ∧
    t.air = s.air ∧ t.issuer = s.issuer

/-- Each counter moves by one, modulo 2^32, and only by the commands of its rule (10_state R27 to R29; 43_pool R133). -/
def Obligations.CountersMoveByOne : Prop :=
  ∀ (i : Instr) (s t : State), exec i s = .next t →
    (t.cntDrop = s.cntDrop ∨ (t.cntDrop = s.cntDrop + 1#32 ∧ i.opcode ∈ [0x40#8, 0x70#8] ∧
      t.lastResult = some (.status ⟨.exhausted, .none⟩))) ∧
    (t.cntMalformed = s.cntMalformed ∨ (t.cntMalformed = s.cntMalformed + 1#32 ∧ i.opcode = 0x70#8)) ∧
    (t.cntShort = s.cntShort ∨ (t.cntShort = s.cntShort + 1#32 ∧ i.opcode ∈ [0x41#8, 0x70#8])) ∧
    (t.cntOverflow = s.cntOverflow ∨ (t.cntOverflow = s.cntOverflow + 1#32 ∧ i.opcode ∈ [0x33#8, 0x52#8, 0x71#8]))

/-- No command writes the active buffer, and while a transfer is in flight none starts a second one, changes the descriptor
or toggles ABI (44_transfer R141, R142; 70_reset_and_hazards R183). -/
def Obligations.TransferInFlightIsLeftAlone : Prop :=
  ∀ (i : Instr) (s t : State), exec i s = .next t →
    t.obuf.get s.abi = s.obuf.get s.abi ∧ t.obufRows.get s.abi = s.obufRows.get s.abi ∧
    (s.xfBusy = true → t.xfBusy = true ∧ t.xfDesc = s.xfDesc ∧ t.abi = s.abi ∧ t.panel = s.panel)

/-! ## Invariants and reset -/

/-- FAULT_CAUSE holds 0 or a code of 60_exceptions R155, and the block is halted exactly when it is not 0: every step keeps
it. -/
def Obligations.FaultRecordKept : Prop :=
  ∀ s t : State, FaultRecordOk s → step s = .next t → FaultRecordOk t

/-- Every memory keeps its canonical form and lists only addresses that exist (20_memory R48): every step keeps it. -/
def Obligations.SpacesKept : Prop :=
  ∀ s t : State, SpacesOk s → step s = .next t → SpacesOk t

/-- PH names the slot in `Filling` and CH the one in `Displaying`, so at most one slot is in each (10_state R45; 43_pool
R132): every step keeps it. -/
def Obligations.HoldersKept : Prop :=
  ∀ s t : State, HoldersOk s → step s = .next t → HoldersOk t

/-- The invariants of 10_state R45, with what holds of each port between micro-steps: every step keeps them. -/
def Obligations.SoundKept : Prop :=
  ∀ s t : State, Sound s → step s = .next t → Sound t

/-- From a sound state every step answers a next state, and it raises `F_UNDEF` on no port and records it nowhere (10_state
R46). -/
def Obligations.SoundStepsNeverReadUndef : Prop :=
  ∀ s : State, Sound s → ∃ t : State, step s = .next t ∧
    (t.faultCause = Cause.undef.code → s.faultCause = Cause.undef.code) ∧
    ∀ p, t.result.get p = some (.fault .undef) → s.result.get p = some (.fault .undef)

/-- After a fault-free first micro-step no later micro-step of a composite command faults: from a sound state, a turn of a
port with a command at micro-step 2 or later neither halts the block nor returns a fault (44_transfer R140; 45_sequences
R145, R147; 60_exceptions R156). -/
def Obligations.LaterMicroStepsDoNotFault : Prop :=
  ∀ (s t : State) (p : Port) (turns : List Turn), Sound s → s.turns = .port p :: turns → 2 ≤ (s.port.get p).step →
    step s = .next t →
    t.bstate = s.bstate ∧ t.faultCause = s.faultCause ∧
    ∀ c, t.result.get p = some (.fault c) → s.result.get p = some (.fault c)

/-- Reset leaves the values of 10_state R47, with `ALLOC_OK` true and false (70_reset_and_hazards R173 to R177). What it
leaves in the model's own fields (`result`, `issuer`, `turns`, `cmdq`, `air`) is not stated. -/
def Obligations.ResetValues : Prop :=
  ∀ (c : Config) (ok : Bool),
    let s := State.resetWith c ok
    s.cfg = c ∧ s.bstate = (if ok then .run else .halted) ∧ s.faultCause = (if ok then 0#8 else 0x89#8) ∧
    (∀ p, s.port.get p = .idle) ∧ s.ph = none ∧ s.ch = none ∧ s.abi = false ∧ s.xfBusy = false ∧
    s.xfDesc = { y := 0#8, h := 0#8, buf := false } ∧ s.clatch = none ∧ s.cntDrop = 0#32 ∧ s.cntMalformed = 0#32 ∧
    s.cntShort = 0#32 ∧ s.cntOverflow = 0#32 ∧ s.slots.length = c.slotCount ∧
    (∀ sl ∈ s.slots, sl.state = .free ∧ sl.filled = false ∧ sl.info = none ∧ ∀ a, Sparse.read sl.payload a = none) ∧
    (∀ x : Byte, s.lut[x.toNat]? = if ok then some (expandPixel c x) else none) ∧
    (∀ i < 240, s.hmap[i]? = (if ok then some (BitVec.ofNat 8 (min ((i * 180 + 120) / 240) 179)) else none) ∧
      s.vmap[i]? = s.hmap[i]?) ∧
    (∀ b a, Sparse.read (s.obuf.get b) a = none) ∧ (∀ b, s.obufRows.get b = 0#8) ∧ s.rxq = [] ∧ s.rxd = none ∧
    ∀ a, Sparse.read s.panel a = none

/-- The state after reset is sound for every well-formed configuration and either `ALLOC_OK`. -/
def Obligations.ResetIsSound : Prop :=
  ∀ (c : Config) (ok : Bool), c.wellFormed = true → Sound (State.resetWith c ok)
end

