-- ==== Sys2Proof/Laws/Memory.lean ====
section
/-! SUPPORT. The laws of the data spaces: a read after a write, what a write and an erase leave alone, and that every
operation keeps the canonical form. -/

namespace Sys2Proof.Machine

theorem Sparse.read_append {α : Type} (m n : List (Nat × α)) (a : Nat) :
    Sparse.read (m ++ n) a = (Sparse.read m a).or (Sparse.read n a) := by
  induction m with
  | nil => simp [Sparse.read]
  | cons kv m ih =>
    obtain ⟨k, v⟩ := kv
    by_cases h : k = a <;> simp [Sparse.read, h, ih]

/-- Filtering by the address keeps or drops an address whole. -/
theorem Sparse.read_filter {α : Type} (p : Nat → Bool) (m : List (Nat × α)) (a : Nat) :
    Sparse.read (m.filter fun kv => p kv.1) a = if p a then Sparse.read m a else none := by
  induction m with
  | nil => simp [Sparse.read]
  | cons kv m ih =>
    obtain ⟨k, v⟩ := kv
    by_cases hp : p k = true
    · by_cases h : k = a
      · subst h; simp [Sparse.read, hp]
      · simp [Sparse.read, hp, h, ih]
    · by_cases h : k = a
      · subst h; simp [hp, ih]
      · simp [Sparse.read, hp, h, ih]

theorem Sparse.read_cells {α : Type} (base : Nat) (vs : List α) (a : Nat) :
    Sparse.read (Sparse.cells base vs) a = if base ≤ a then vs[a - base]? else none := by
  induction vs generalizing base with
  | nil => simp [Sparse.cells, Sparse.read]
  | cons v vs ih =>
    simp only [Sparse.cells, Sparse.read, ih]
    by_cases h : base = a
    · subst h; simp
    · by_cases hl : base ≤ a
      · have h1 : base + 1 ≤ a := by omega
        have h2 : a - base = (a - (base + 1)) + 1 := by omega
        simp [h, hl, h1, h2]
      · have h1 : ¬ base + 1 ≤ a := by omega
        simp [h, hl, h1]

/-- A read after a write: the value written inside the block, the old one outside. -/
theorem Sparse.read_write {α : Type} (m : List (Nat × α)) (base : Nat) (vs : List α) (a : Nat) :
    Sparse.read (Sparse.write m base vs) a =
      if base ≤ a ∧ a < base + vs.length then vs[a - base]? else Sparse.read m a := by
  simp only [Sparse.write, Sparse.read_append, Sparse.read_cells,
    Sparse.read_filter (fun k => decide (k < base)), Sparse.read_filter (fun k => decide (base + vs.length ≤ k)),
    decide_eq_true_eq]
  by_cases h1 : a < base
  · have : ¬ base ≤ a := by omega
    have h3 : ¬ base + vs.length ≤ a := by omega
    simp [h1, this, h3]
  · have h2 : base ≤ a := by omega
    by_cases h3 : a < base + vs.length
    · have h4 : ¬ base + vs.length ≤ a := by omega
      simp [h1, h2, h3, h4]
    · have h4 : base + vs.length ≤ a := by omega
      have h5 : vs[a - base]? = none := by simp; omega
      simp [h1, h2, h3, h4, h5]

theorem Sparse.read_write_inside {α : Type} {m : List (Nat × α)} {base : Nat} {vs : List α} {a : Nat}
    (h1 : base ≤ a) (h2 : a < base + vs.length) : Sparse.read (Sparse.write m base vs) a = vs[a - base]? := by
  simp [Sparse.read_write, h1, h2]

theorem Sparse.read_write_outside {α : Type} {m : List (Nat × α)} {base : Nat} {vs : List α} {a : Nat}
    (h : a < base ∨ base + vs.length ≤ a) : Sparse.read (Sparse.write m base vs) a = Sparse.read m a := by
  rw [Sparse.read_write, if_neg (by omega)]

/-- An erased address is `undef`, every other one is left alone. -/
theorem Sparse.read_erase {α : Type} (m : List (Nat × α)) (base n a : Nat) :
    Sparse.read (Sparse.erase m base n) a = if a < base ∨ base + n ≤ a then Sparse.read m a else none := by
  rw [Sparse.erase, Sparse.read_filter (fun k => decide (k < base) || decide (base + n ≤ k))]
  simp

theorem Sparse.mem_cells {α : Type} {base : Nat} {vs : List α} {kv : Nat × α} (h : kv ∈ Sparse.cells base vs) :
    base ≤ kv.1 ∧ kv.1 < base + vs.length := by
  induction vs generalizing base with
  | nil => simp [Sparse.cells] at h
  | cons v vs ih =>
    simp only [Sparse.cells, List.mem_cons] at h
    rcases h with rfl | h
    · simp
    · have := ih h
      simp only [List.length_cons]
      omega

theorem Sparse.wf_cells {α : Type} (base : Nat) (vs : List α) : Sparse.wf (Sparse.cells base vs) := by
  induction vs generalizing base with
  | nil => exact List.Pairwise.nil
  | cons v vs ih => exact List.Pairwise.cons (fun kv h => by have := Sparse.mem_cells h; simp; omega) (ih _)

/-- A write keeps the canonical form. -/
theorem Sparse.wf_write {α : Type} {m : List (Nat × α)} (h : Sparse.wf m) (base : Nat) (vs : List α) :
    Sparse.wf (Sparse.write m base vs) := by
  simp only [Sparse.wf, Sparse.write, List.pairwise_append, List.mem_append]
  refine ⟨⟨h.filter _, Sparse.wf_cells _ _, ?_⟩, h.filter _, ?_⟩
  · intro x hx y hy
    have := Sparse.mem_cells hy
    have hx := (List.mem_filter.1 hx).2
    simp only [decide_eq_true_eq] at hx
    omega
  · intro x hx y hy
    have hy := (List.mem_filter.1 hy).2
    simp only [decide_eq_true_eq] at hy
    rcases hx with hx | hx
    · have hx := (List.mem_filter.1 hx).2
      simp only [decide_eq_true_eq] at hx
      omega
    · have := Sparse.mem_cells hx
      omega

/-- An erase keeps the canonical form. -/
theorem Sparse.wf_erase {α : Type} {m : List (Nat × α)} (h : Sparse.wf m) (base n : Nat) :
    Sparse.wf (Sparse.erase m base n) :=
  h.filter _

/-- A write lists no address but the old ones and those of the block. -/
theorem Sparse.mem_write {α : Type} {m : List (Nat × α)} {base : Nat} {vs : List α} {kv : Nat × α}
    (h : kv ∈ Sparse.write m base vs) : kv ∈ m ∨ (base ≤ kv.1 ∧ kv.1 < base + vs.length) := by
  simp only [Sparse.write, List.mem_append, List.mem_filter] at h
  rcases h with (h | h) | h
  · exact .inl h.1
  · exact .inr (Sparse.mem_cells h)
  · exact .inl h.1

theorem Sparse.mem_erase {α : Type} {m : List (Nat × α)} {base n : Nat} {kv : Nat × α}
    (h : kv ∈ Sparse.erase m base n) : kv ∈ m :=
  (List.mem_filter.1 h).1

/-! ## Lists of readings -/

theorem allDefined_map_some {α : Type} (vs : List α) : allDefined (vs.map some) = some vs := by
  induction vs with
  | nil => rfl
  | cons v vs ih => simp [allDefined, ih]

theorem allDefined_eq_some {α : Type} {rs : List (Option α)} {vs : List α} :
    allDefined rs = some vs ↔ rs = vs.map some := by
  constructor
  · induction rs generalizing vs with
    | nil => intro h; cases h; rfl
    | cons r rs ih =>
      cases r with
      | none => intro h; cases h
      | some v =>
        intro h
        simp only [allDefined] at h
        split at h
        · cases h
        · next us e => cases h; rw [ih e, List.map_cons]
  · rintro rfl; exact allDefined_map_some vs

/-- If every reading is defined, the whole list is. -/
theorem allDefined_isSome {α : Type} {rs : List (Option α)} (h : ∀ r ∈ rs, r.isSome) :
    ∃ vs, allDefined rs = some vs := by
  induction rs with
  | nil => exact ⟨[], rfl⟩
  | cons r rs ih =>
    obtain ⟨vs, e⟩ := ih fun r hr => h r (List.mem_cons_of_mem _ hr)
    obtain ⟨v, rfl⟩ := Option.isSome_iff_exists.1 (h r List.mem_cons_self)
    exact ⟨v :: vs, by simp [allDefined, e]⟩

theorem allDefined_length {α : Type} {rs : List (Option α)} {vs : List α} (h : allDefined rs = some vs) :
    vs.length = rs.length := by
  rw [allDefined_eq_some.1 h, List.length_map]

end Sys2Proof.Machine
end

