-- ==== Sys2Proof/Laws/Bands.lean ====
section
/-! SUPPORT. The scale tables, the geometry and the source pixels of a whole band: the bounds and the definedness that
SCL_BAND rests on. -/

namespace Sys2Proof.Machine

open Sys2Proof.Safety

theorem map180_le (i : Nat) : map180 i ≤ 179 := Nat.min_le_right _ _

theorem map180_toNat (i : Nat) : (BitVec.ofNat 8 (map180 i)).toNat = map180 i := by
  have := map180_le i
  simp
  omega

/-- Entry `i` of HMAP and VMAP as reset builds them. -/
theorem builtMap_get {i : Nat} (h : i < 240) : builtMap[i]? = some (BitVec.ofNat 8 (map180 i)) := by
  simp [builtMap, h]

/-- Entry `b` of LUT as reset builds it. -/
theorem builtLut_get (c : Config) (b : Byte) : (builtLut c)[b.toNat]? = some (expandPixel c b) := by
  have : b.toNat < 256 := b.isLt
  simp [builtLut, this]

/-- The drawn rows of a band: no more than its lines, than the buffer, and than the raster has left. -/
theorem geom_bounds (outRows : Nat) (w : SrcWidth) (y0 lc : Nat) :
    (geom outRows w y0 lc).h ≤ 240 ∧ (geom outRows w y0 lc).h ≤ dstLines w y0 lc ∧ (geom outRows w y0 lc).h ≤ outRows ∧
    ((geom outRows w y0 lc).verdict = .ok →
      1 ≤ (geom outRows w y0 lc).h ∧ (geom outRows w y0 lc).y + (geom outRows w y0 lc).h ≤ 240) := by
  simp only [geom, clippedRows]
  by_cases h1 : outRows < dstLines w y0 lc <;> by_cases h2 : 240 ≤ dstY0 w y0 <;> simp [h1, h2]
  split at * <;> simp at * <;> omega

/-- A band that overflows draws no row. -/
theorem geom_overflow {outRows : Nat} {w : SrcWidth} {y0 lc : Nat} (h : (geom outRows w y0 lc).verdict = .overflow) :
    (geom outRows w y0 lc).y = 0 ∧ (geom outRows w y0 lc).h = 0 := by
  simp only [geom] at h ⊢
  split at h
  · next e => simp [e]
  · exfalso; split at h <;> simp at h

/-- A source pixel inside a whole band is defined. -/
theorem srcPix_defined {s : State} {m : SlotMeta} {p : Memory} {lc sr sc : Nat} (hl : s.lut = builtLut s.cfg)
    (hp : ∀ k < payloadBytes m.srcWidth lc m.isFullDepth, (Sparse.read p k).isSome) (h1 : sr < lc)
    (h2 : sc < m.srcWidth.samples) : (srcPix s m p sr sc).isSome := by
  have h3 : m.srcWidth.samples * sr + sc < m.srcWidth.samples * lc := by
    calc m.srcWidth.samples * sr + sc < m.srcWidth.samples * sr + m.srcWidth.samples := by omega
      _ = m.srcWidth.samples * (sr + 1) := by ring
      _ ≤ m.srcWidth.samples * lc := Nat.mul_le_mul_left _ h1
  unfold srcPix
  simp only [payloadBytes, bytesPerPixel] at hp
  cases hf : m.isFullDepth
  · simp only [hf, Bool.false_eq_true, if_false, mul_one] at hp ⊢
    obtain ⟨v, hv⟩ := Option.isSome_iff_exists.1 (hp _ h3)
    simp [hv, hl, builtLut_get]
  · simp only [hf, if_true] at hp ⊢
    obtain ⟨v, hv⟩ := Option.isSome_iff_exists.1 (hp (2 * (m.srcWidth.samples * sr + sc)) (by omega))
    obtain ⟨w, hw⟩ := Option.isSome_iff_exists.1 (hp (2 * (m.srcWidth.samples * sr + sc) + 1) (by omega))
    simp [readPixel, hv, hw]

/-- Every destination pixel of a drawn row of a whole band is defined, with the tables as reset builds them. -/
theorem bandPixel_defined {s : State} {sl : Slot} {m : SlotMeta} {r c : Nat} (hl : s.lut = builtLut s.cfg)
    (hh : s.hmap = builtMap) (hv : s.vmap = builtMap) (hb : HoldsBand s.cfg sl) (hm : sl.info = some m)
    (hr : r < (slotGeom s.cfg m).h) (hc : c < 240) : (bandPixel s m sl.payload r c).isSome := by
  obtain ⟨m', hm', h1, h2, h3⟩ := hb
  rw [hm] at hm'; cases hm'
  obtain ⟨g1, g2, -, -⟩ := geom_bounds s.cfg.outRows m.srcWidth m.srcY0.toNat m.srcLineCount.toNat
  simp only [slotGeom] at hr
  have key : ∀ sr sc, srcPos s m.srcWidth m.srcLineCount.toNat r c = some (sr, sc) → sr < m.srcLineCount.toNat →
      sc < m.srcWidth.samples → (bandPixel s m sl.payload r c).isSome := by
    intro sr sc e a b
    simp only [bandPixel, e]
    exact srcPix_defined hl h3 a b
  cases hw : m.srcWidth <;> rw [hw] at key g2 hr <;> simp only [srcPos, dstLines] at key g2
  · exact key r c rfl (by omega) (by simp only [SrcWidth.samples]; omega)
  · have hr240 : r < 240 := by rw [hw] at g1; omega
    rw [hh, hv, builtMap_get hr240, builtMap_get hc] at key
    simp only [map180_toNat] at key
    have := map180_le c
    exact key _ _ rfl (by omega) (by simp only [SrcWidth.samples]; omega)
  · refine key (r / 2) (c / 2) rfl ?_ (by simp only [SrcWidth.samples]; omega)
    split at g2
    · split at g2 <;> omega
    · omega

/-- A whole band can be copied. -/
theorem bandPixels_defined {s : State} {sl : Slot} {m : SlotMeta} (hl : s.lut = builtLut s.cfg) (hh : s.hmap = builtMap)
    (hv : s.vmap = builtMap) (hb : HoldsBand s.cfg sl) (hm : sl.info = some m) :
    ∃ pixels, bandPixels s m sl.payload (slotGeom s.cfg m).h = some pixels := by
  apply allDefined_isSome
  intro r hr
  obtain ⟨k, hk, rfl⟩ := List.mem_map.1 hr
  exact bandPixel_defined hl hh hv hb hm (Nat.div_lt_of_lt_mul (List.mem_range.1 hk)) (Nat.mod_lt _ (by omega))

theorem flatMap_pixelBytes_length (o : ByteOrder) (pixels : List Half) :
    (pixels.flatMap (pixelBytes o)).length = 2 * pixels.length := by
  induction pixels with
  | nil => rfl
  | cons p ps ih => cases o <;> simp [pixelBytes] at ih ⊢ <;> omega

/-- What an accepted header says of its band (40_codec R90, R91). -/
theorem headerOf_ok {maxLines : Nat} {d : Datagram} {h : Header} (e : headerOf maxLines d = .ok h) :
    1 ≤ h.lineCount.toNat ∧ h.lineCount.toNat ≤ maxLines ∧
      h.expected = payloadBytes h.sourceWidth h.lineCount.toNat h.isFullDepth := by
  unfold headerOf at e
  split at e
  · unfold decodeHeader at e
    split at e
    · cases e
    · next hc =>
      split at e
      · cases e
      · cases e
        unfold checkFlags at hc
        split at hc
        · cases hc
        · next h1 =>
          split at hc
          · cases hc
          · next h2 =>
            refine ⟨?_, Nat.le_of_not_lt h2, rfl⟩
            by_contra h3
            exact h1 (BitVec.eq_of_toNat_eq (Nat.lt_one_iff.1 (Nat.lt_of_not_le h3)))
  · cases e

end Sys2Proof.Machine
end

