-- ==== Sys2Proof/Laws/Codes.lean ====
section
/-! SUPPORT. The numbers of a result tell its codes apart (30_encoding R85; 60_exceptions R155). -/

namespace Sys2Proof.Machine

@[simp] theorem Result.code_status (st : Status) : (Result.status st).code = st.code.code := rfl
@[simp] theorem Result.code_fault (c : Cause) : (Result.fault c).code = c.code := rfl

/-- Status codes are 0x00 to 0x07. -/
theorem Code.code_lt (c : Code) : c.code.toNat < 8 := by cases c <;> decide

/-- Cause codes are 0x81 to 0x89. -/
theorem Cause.code_ge (c : Cause) : 0x81 ≤ c.code.toNat ∧ c.code.toNat ≤ 0x89 := by cases c <;> decide

theorem Code.code_injective {a b : Code} (h : a.code = b.code) : a = b := by
  cases a <;> cases b <;> first | rfl | exact absurd h (by decide)

theorem Subcause.code_injective {a b : Subcause} (h : a.code = b.code) : a = b := by
  cases a <;> cases b <;> first | rfl | exact absurd h (by decide)

theorem Cause.code_injective {a b : Cause} (h : a.code = b.code) : a = b := by
  cases a <;> cases b <;> first | rfl | exact absurd h (by decide)

/-- A status and a fault never carry the same number. -/
theorem Result.code_status_ne_fault (st : Status) (c : Cause) : (Result.status st).code ≠ (Result.fault c).code := by
  intro h
  have h1 := st.code.code_lt
  have h2 := c.code_ge
  simp only [Result.code_status, Result.code_fault] at h
  rw [h] at h1
  omega

end Sys2Proof.Machine
end

