-- ==== Sys2Proof/Laws/State.lean ====
section
/-! SUPPORT. One lemma per field per update of the state: what `setPortState`, `conclude`, `finish`, `halt`, `faultEntry`
and `updateSlot` write and what they leave, so that no later proof unfolds a record update. -/

namespace Sys2Proof.Machine

/-! ## Per-port and per-buffer values -/

@[simp] theorem PerPort.get_set_self {α : Type} (v : PerPort α) (p : Port) (a : α) : (v.set p a).get p = a := by
  cases p <;> rfl

theorem PerPort.get_set_ne {α : Type} (v : PerPort α) {p q : Port} (h : q ≠ p) (a : α) :
    (v.set p a).get q = v.get q := by
  cases p <;> cases q <;> first | rfl | exact absurd rfl h

@[simp] theorem PerPort.set_set {α : Type} (v : PerPort α) (p : Port) (a b : α) : (v.set p a).set p b = v.set p b := by
  cases p <;> rfl

@[simp] theorem PerPort.set_get {α : Type} (v : PerPort α) (p : Port) : v.set p (v.get p) = v := by
  cases p <;> rfl

@[simp] theorem PerPort.get_all {α : Type} (a : α) (p : Port) : (PerPort.all a).get p = a := by
  cases p <;> rfl

@[simp] theorem PerBuf.get_set_self {α : Type} (v : PerBuf α) (b : Bool) (a : α) : (v.set b a).get b = a := by
  cases b <;> rfl

@[simp] theorem PerBuf.get_set_not {α : Type} (v : PerBuf α) (b : Bool) (a : α) : (v.set (!b) a).get b = v.get b := by
  cases b <;> rfl

@[simp] theorem PerBuf.get_not_set {α : Type} (v : PerBuf α) (b : Bool) (a : α) : (v.set b a).get (!b) = v.get (!b) := by
  cases b <;> rfl

theorem PerBuf.get_set_ne {α : Type} (v : PerBuf α) {b c : Bool} (h : c ≠ b) (a : α) : (v.set b a).get c = v.get c := by
  cases b <;> cases c <;> first | rfl | exact absurd rfl h

/-! ## `setPortState` -/

@[simp] theorem State.setPortState_cfg (s : State) (ps : PortState) : (s.setPortState ps).cfg = s.cfg := rfl
@[simp] theorem State.setPortState_bstate (s : State) (ps : PortState) : (s.setPortState ps).bstate = s.bstate := rfl
@[simp] theorem State.setPortState_faultCause (s : State) (ps : PortState) : (s.setPortState ps).faultCause = s.faultCause := rfl
@[simp] theorem State.setPortState_port (s : State) (ps : PortState) : (s.setPortState ps).port = s.port.set s.issuer ps := rfl
@[simp] theorem State.setPortState_result (s : State) (ps : PortState) : (s.setPortState ps).result = s.result := rfl
@[simp] theorem State.setPortState_ph (s : State) (ps : PortState) : (s.setPortState ps).ph = s.ph := rfl
@[simp] theorem State.setPortState_ch (s : State) (ps : PortState) : (s.setPortState ps).ch = s.ch := rfl
@[simp] theorem State.setPortState_abi (s : State) (ps : PortState) : (s.setPortState ps).abi = s.abi := rfl
@[simp] theorem State.setPortState_xfBusy (s : State) (ps : PortState) : (s.setPortState ps).xfBusy = s.xfBusy := rfl
@[simp] theorem State.setPortState_xfDesc (s : State) (ps : PortState) : (s.setPortState ps).xfDesc = s.xfDesc := rfl
@[simp] theorem State.setPortState_clatch (s : State) (ps : PortState) : (s.setPortState ps).clatch = s.clatch := rfl
@[simp] theorem State.setPortState_cntDrop (s : State) (ps : PortState) : (s.setPortState ps).cntDrop = s.cntDrop := rfl
@[simp] theorem State.setPortState_cntMalformed (s : State) (ps : PortState) : (s.setPortState ps).cntMalformed = s.cntMalformed := rfl
@[simp] theorem State.setPortState_cntShort (s : State) (ps : PortState) : (s.setPortState ps).cntShort = s.cntShort := rfl
@[simp] theorem State.setPortState_cntOverflow (s : State) (ps : PortState) : (s.setPortState ps).cntOverflow = s.cntOverflow := rfl
@[simp] theorem State.setPortState_slots (s : State) (ps : PortState) : (s.setPortState ps).slots = s.slots := rfl
@[simp] theorem State.setPortState_lut (s : State) (ps : PortState) : (s.setPortState ps).lut = s.lut := rfl
@[simp] theorem State.setPortState_hmap (s : State) (ps : PortState) : (s.setPortState ps).hmap = s.hmap := rfl
@[simp] theorem State.setPortState_vmap (s : State) (ps : PortState) : (s.setPortState ps).vmap = s.vmap := rfl
@[simp] theorem State.setPortState_obuf (s : State) (ps : PortState) : (s.setPortState ps).obuf = s.obuf := rfl
@[simp] theorem State.setPortState_obufRows (s : State) (ps : PortState) : (s.setPortState ps).obufRows = s.obufRows := rfl
@[simp] theorem State.setPortState_rxq (s : State) (ps : PortState) : (s.setPortState ps).rxq = s.rxq := rfl
@[simp] theorem State.setPortState_rxd (s : State) (ps : PortState) : (s.setPortState ps).rxd = s.rxd := rfl
@[simp] theorem State.setPortState_panel (s : State) (ps : PortState) : (s.setPortState ps).panel = s.panel := rfl
@[simp] theorem State.setPortState_issuer (s : State) (ps : PortState) : (s.setPortState ps).issuer = s.issuer := rfl
@[simp] theorem State.setPortState_turns (s : State) (ps : PortState) : (s.setPortState ps).turns = s.turns := rfl
@[simp] theorem State.setPortState_cmdq (s : State) (ps : PortState) : (s.setPortState ps).cmdq = s.cmdq := rfl
@[simp] theorem State.setPortState_air (s : State) (ps : PortState) : (s.setPortState ps).air = s.air := rfl

/-! ## `conclude` -/

@[simp] theorem State.conclude_cfg (s : State) (r : Result) : (s.conclude r).cfg = s.cfg := rfl
@[simp] theorem State.conclude_bstate (s : State) (r : Result) : (s.conclude r).bstate = s.bstate := rfl
@[simp] theorem State.conclude_faultCause (s : State) (r : Result) : (s.conclude r).faultCause = s.faultCause := rfl
@[simp] theorem State.conclude_port (s : State) (r : Result) : (s.conclude r).port = s.port.set s.issuer .idle := rfl
@[simp] theorem State.conclude_result (s : State) (r : Result) : (s.conclude r).result = s.result.set s.issuer (some r) := rfl
@[simp] theorem State.conclude_ph (s : State) (r : Result) : (s.conclude r).ph = s.ph := rfl
@[simp] theorem State.conclude_ch (s : State) (r : Result) : (s.conclude r).ch = s.ch := rfl
@[simp] theorem State.conclude_abi (s : State) (r : Result) : (s.conclude r).abi = s.abi := rfl
@[simp] theorem State.conclude_xfBusy (s : State) (r : Result) : (s.conclude r).xfBusy = s.xfBusy := rfl
@[simp] theorem State.conclude_xfDesc (s : State) (r : Result) : (s.conclude r).xfDesc = s.xfDesc := rfl
@[simp] theorem State.conclude_clatch (s : State) (r : Result) : (s.conclude r).clatch = s.clatch := rfl
@[simp] theorem State.conclude_cntDrop (s : State) (r : Result) : (s.conclude r).cntDrop = s.cntDrop := rfl
@[simp] theorem State.conclude_cntMalformed (s : State) (r : Result) : (s.conclude r).cntMalformed = s.cntMalformed := rfl
@[simp] theorem State.conclude_cntShort (s : State) (r : Result) : (s.conclude r).cntShort = s.cntShort := rfl
@[simp] theorem State.conclude_cntOverflow (s : State) (r : Result) : (s.conclude r).cntOverflow = s.cntOverflow := rfl
@[simp] theorem State.conclude_slots (s : State) (r : Result) : (s.conclude r).slots = s.slots := rfl
@[simp] theorem State.conclude_lut (s : State) (r : Result) : (s.conclude r).lut = s.lut := rfl
@[simp] theorem State.conclude_hmap (s : State) (r : Result) : (s.conclude r).hmap = s.hmap := rfl
@[simp] theorem State.conclude_vmap (s : State) (r : Result) : (s.conclude r).vmap = s.vmap := rfl
@[simp] theorem State.conclude_obuf (s : State) (r : Result) : (s.conclude r).obuf = s.obuf := rfl
@[simp] theorem State.conclude_obufRows (s : State) (r : Result) : (s.conclude r).obufRows = s.obufRows := rfl
@[simp] theorem State.conclude_rxq (s : State) (r : Result) : (s.conclude r).rxq = s.rxq := rfl
@[simp] theorem State.conclude_rxd (s : State) (r : Result) : (s.conclude r).rxd = s.rxd := rfl
@[simp] theorem State.conclude_panel (s : State) (r : Result) : (s.conclude r).panel = s.panel := rfl
@[simp] theorem State.conclude_issuer (s : State) (r : Result) : (s.conclude r).issuer = s.issuer := rfl
@[simp] theorem State.conclude_turns (s : State) (r : Result) : (s.conclude r).turns = s.turns := rfl
@[simp] theorem State.conclude_cmdq (s : State) (r : Result) : (s.conclude r).cmdq = s.cmdq := rfl
@[simp] theorem State.conclude_air (s : State) (r : Result) : (s.conclude r).air = s.air := rfl

/-! ## `finish` -/

@[simp] theorem State.finish_cfg (s : State) (code : Code) (data : Data) : (s.finish code data).cfg = s.cfg := rfl
@[simp] theorem State.finish_bstate (s : State) (code : Code) (data : Data) : (s.finish code data).bstate = s.bstate := rfl
@[simp] theorem State.finish_faultCause (s : State) (code : Code) (data : Data) : (s.finish code data).faultCause = s.faultCause := rfl
@[simp] theorem State.finish_port (s : State) (code : Code) (data : Data) : (s.finish code data).port = s.port.set s.issuer .idle := rfl
@[simp] theorem State.finish_result (s : State) (code : Code) (data : Data) : (s.finish code data).result = 
    s.result.set s.issuer (some (.status ⟨code, data⟩)) := rfl
@[simp] theorem State.finish_ph (s : State) (code : Code) (data : Data) : (s.finish code data).ph = s.ph := rfl
@[simp] theorem State.finish_ch (s : State) (code : Code) (data : Data) : (s.finish code data).ch = s.ch := rfl
@[simp] theorem State.finish_abi (s : State) (code : Code) (data : Data) : (s.finish code data).abi = s.abi := rfl
@[simp] theorem State.finish_xfBusy (s : State) (code : Code) (data : Data) : (s.finish code data).xfBusy = s.xfBusy := rfl
@[simp] theorem State.finish_xfDesc (s : State) (code : Code) (data : Data) : (s.finish code data).xfDesc = s.xfDesc := rfl
@[simp] theorem State.finish_clatch (s : State) (code : Code) (data : Data) : (s.finish code data).clatch = s.clatch := rfl
@[simp] theorem State.finish_cntDrop (s : State) (code : Code) (data : Data) : (s.finish code data).cntDrop = s.cntDrop := rfl
@[simp] theorem State.finish_cntMalformed (s : State) (code : Code) (data : Data) : (s.finish code data).cntMalformed = s.cntMalformed := rfl
@[simp] theorem State.finish_cntShort (s : State) (code : Code) (data : Data) : (s.finish code data).cntShort = s.cntShort := rfl
@[simp] theorem State.finish_cntOverflow (s : State) (code : Code) (data : Data) : (s.finish code data).cntOverflow = s.cntOverflow := rfl
@[simp] theorem State.finish_slots (s : State) (code : Code) (data : Data) : (s.finish code data).slots = s.slots := rfl
@[simp] theorem State.finish_lut (s : State) (code : Code) (data : Data) : (s.finish code data).lut = s.lut := rfl
@[simp] theorem State.finish_hmap (s : State) (code : Code) (data : Data) : (s.finish code data).hmap = s.hmap := rfl
@[simp] theorem State.finish_vmap (s : State) (code : Code) (data : Data) : (s.finish code data).vmap = s.vmap := rfl
@[simp] theorem State.finish_obuf (s : State) (code : Code) (data : Data) : (s.finish code data).obuf = s.obuf := rfl
@[simp] theorem State.finish_obufRows (s : State) (code : Code) (data : Data) : (s.finish code data).obufRows = s.obufRows := rfl
@[simp] theorem State.finish_rxq (s : State) (code : Code) (data : Data) : (s.finish code data).rxq = s.rxq := rfl
@[simp] theorem State.finish_rxd (s : State) (code : Code) (data : Data) : (s.finish code data).rxd = s.rxd := rfl
@[simp] theorem State.finish_panel (s : State) (code : Code) (data : Data) : (s.finish code data).panel = s.panel := rfl
@[simp] theorem State.finish_issuer (s : State) (code : Code) (data : Data) : (s.finish code data).issuer = s.issuer := rfl
@[simp] theorem State.finish_turns (s : State) (code : Code) (data : Data) : (s.finish code data).turns = s.turns := rfl
@[simp] theorem State.finish_cmdq (s : State) (code : Code) (data : Data) : (s.finish code data).cmdq = s.cmdq := rfl
@[simp] theorem State.finish_air (s : State) (code : Code) (data : Data) : (s.finish code data).air = s.air := rfl

/-! ## `halt` -/

@[simp] theorem State.halt_cfg (s : State) (c : Cause) : (s.halt c).cfg = s.cfg := rfl
@[simp] theorem State.halt_bstate (s : State) (c : Cause) : (s.halt c).bstate = BState.halted := rfl
@[simp] theorem State.halt_faultCause (s : State) (c : Cause) : (s.halt c).faultCause = 
    if s.faultCause = 0#8 then c.code else s.faultCause := rfl
@[simp] theorem State.halt_port (s : State) (c : Cause) : (s.halt c).port = s.port := rfl
@[simp] theorem State.halt_result (s : State) (c : Cause) : (s.halt c).result = s.result := rfl
@[simp] theorem State.halt_ph (s : State) (c : Cause) : (s.halt c).ph = s.ph := rfl
@[simp] theorem State.halt_ch (s : State) (c : Cause) : (s.halt c).ch = s.ch := rfl
@[simp] theorem State.halt_abi (s : State) (c : Cause) : (s.halt c).abi = s.abi := rfl
@[simp] theorem State.halt_xfBusy (s : State) (c : Cause) : (s.halt c).xfBusy = s.xfBusy := rfl
@[simp] theorem State.halt_xfDesc (s : State) (c : Cause) : (s.halt c).xfDesc = s.xfDesc := rfl
@[simp] theorem State.halt_clatch (s : State) (c : Cause) : (s.halt c).clatch = s.clatch := rfl
@[simp] theorem State.halt_cntDrop (s : State) (c : Cause) : (s.halt c).cntDrop = s.cntDrop := rfl
@[simp] theorem State.halt_cntMalformed (s : State) (c : Cause) : (s.halt c).cntMalformed = s.cntMalformed := rfl
@[simp] theorem State.halt_cntShort (s : State) (c : Cause) : (s.halt c).cntShort = s.cntShort := rfl
@[simp] theorem State.halt_cntOverflow (s : State) (c : Cause) : (s.halt c).cntOverflow = s.cntOverflow := rfl
@[simp] theorem State.halt_slots (s : State) (c : Cause) : (s.halt c).slots = s.slots := rfl
@[simp] theorem State.halt_lut (s : State) (c : Cause) : (s.halt c).lut = s.lut := rfl
@[simp] theorem State.halt_hmap (s : State) (c : Cause) : (s.halt c).hmap = s.hmap := rfl
@[simp] theorem State.halt_vmap (s : State) (c : Cause) : (s.halt c).vmap = s.vmap := rfl
@[simp] theorem State.halt_obuf (s : State) (c : Cause) : (s.halt c).obuf = s.obuf := rfl
@[simp] theorem State.halt_obufRows (s : State) (c : Cause) : (s.halt c).obufRows = s.obufRows := rfl
@[simp] theorem State.halt_rxq (s : State) (c : Cause) : (s.halt c).rxq = s.rxq := rfl
@[simp] theorem State.halt_rxd (s : State) (c : Cause) : (s.halt c).rxd = s.rxd := rfl
@[simp] theorem State.halt_panel (s : State) (c : Cause) : (s.halt c).panel = s.panel := rfl
@[simp] theorem State.halt_issuer (s : State) (c : Cause) : (s.halt c).issuer = s.issuer := rfl
@[simp] theorem State.halt_turns (s : State) (c : Cause) : (s.halt c).turns = s.turns := rfl
@[simp] theorem State.halt_cmdq (s : State) (c : Cause) : (s.halt c).cmdq = s.cmdq := rfl
@[simp] theorem State.halt_air (s : State) (c : Cause) : (s.halt c).air = s.air := rfl

/-! ## `faultEntry` -/

@[simp] theorem State.faultEntry_cfg (s : State) (c : Cause) : (s.faultEntry c).cfg = s.cfg := rfl
@[simp] theorem State.faultEntry_bstate (s : State) (c : Cause) : (s.faultEntry c).bstate = BState.halted := rfl
@[simp] theorem State.faultEntry_faultCause (s : State) (c : Cause) : (s.faultEntry c).faultCause = 
    if s.faultCause = 0#8 then c.code else s.faultCause := rfl
@[simp] theorem State.faultEntry_port (s : State) (c : Cause) : (s.faultEntry c).port = s.port.set s.issuer .idle := rfl
@[simp] theorem State.faultEntry_result (s : State) (c : Cause) : (s.faultEntry c).result = 
    s.result.set s.issuer (some (.fault c)) := rfl
@[simp] theorem State.faultEntry_ph (s : State) (c : Cause) : (s.faultEntry c).ph = s.ph := rfl
@[simp] theorem State.faultEntry_ch (s : State) (c : Cause) : (s.faultEntry c).ch = s.ch := rfl
@[simp] theorem State.faultEntry_abi (s : State) (c : Cause) : (s.faultEntry c).abi = s.abi := rfl
@[simp] theorem State.faultEntry_xfBusy (s : State) (c : Cause) : (s.faultEntry c).xfBusy = s.xfBusy := rfl
@[simp] theorem State.faultEntry_xfDesc (s : State) (c : Cause) : (s.faultEntry c).xfDesc = s.xfDesc := rfl
@[simp] theorem State.faultEntry_clatch (s : State) (c : Cause) : (s.faultEntry c).clatch = s.clatch := rfl
@[simp] theorem State.faultEntry_cntDrop (s : State) (c : Cause) : (s.faultEntry c).cntDrop = s.cntDrop := rfl
@[simp] theorem State.faultEntry_cntMalformed (s : State) (c : Cause) : (s.faultEntry c).cntMalformed = s.cntMalformed := rfl
@[simp] theorem State.faultEntry_cntShort (s : State) (c : Cause) : (s.faultEntry c).cntShort = s.cntShort := rfl
@[simp] theorem State.faultEntry_cntOverflow (s : State) (c : Cause) : (s.faultEntry c).cntOverflow = s.cntOverflow := rfl
@[simp] theorem State.faultEntry_slots (s : State) (c : Cause) : (s.faultEntry c).slots = s.slots := rfl
@[simp] theorem State.faultEntry_lut (s : State) (c : Cause) : (s.faultEntry c).lut = s.lut := rfl
@[simp] theorem State.faultEntry_hmap (s : State) (c : Cause) : (s.faultEntry c).hmap = s.hmap := rfl
@[simp] theorem State.faultEntry_vmap (s : State) (c : Cause) : (s.faultEntry c).vmap = s.vmap := rfl
@[simp] theorem State.faultEntry_obuf (s : State) (c : Cause) : (s.faultEntry c).obuf = s.obuf := rfl
@[simp] theorem State.faultEntry_obufRows (s : State) (c : Cause) : (s.faultEntry c).obufRows = s.obufRows := rfl
@[simp] theorem State.faultEntry_rxq (s : State) (c : Cause) : (s.faultEntry c).rxq = s.rxq := rfl
@[simp] theorem State.faultEntry_rxd (s : State) (c : Cause) : (s.faultEntry c).rxd = s.rxd := rfl
@[simp] theorem State.faultEntry_panel (s : State) (c : Cause) : (s.faultEntry c).panel = s.panel := rfl
@[simp] theorem State.faultEntry_issuer (s : State) (c : Cause) : (s.faultEntry c).issuer = s.issuer := rfl
@[simp] theorem State.faultEntry_turns (s : State) (c : Cause) : (s.faultEntry c).turns = s.turns := rfl
@[simp] theorem State.faultEntry_cmdq (s : State) (c : Cause) : (s.faultEntry c).cmdq = s.cmdq := rfl
@[simp] theorem State.faultEntry_air (s : State) (c : Cause) : (s.faultEntry c).air = s.air := rfl

/-! ## `updateSlot` -/

@[simp] theorem State.updateSlot_cfg (s : State) (i : Nat) (f : Slot → Slot) : (s.updateSlot i f).cfg = s.cfg := rfl
@[simp] theorem State.updateSlot_bstate (s : State) (i : Nat) (f : Slot → Slot) : (s.updateSlot i f).bstate = s.bstate := rfl
@[simp] theorem State.updateSlot_faultCause (s : State) (i : Nat) (f : Slot → Slot) : (s.updateSlot i f).faultCause = s.faultCause := rfl
@[simp] theorem State.updateSlot_port (s : State) (i : Nat) (f : Slot → Slot) : (s.updateSlot i f).port = s.port := rfl
@[simp] theorem State.updateSlot_result (s : State) (i : Nat) (f : Slot → Slot) : (s.updateSlot i f).result = s.result := rfl
@[simp] theorem State.updateSlot_ph (s : State) (i : Nat) (f : Slot → Slot) : (s.updateSlot i f).ph = s.ph := rfl
@[simp] theorem State.updateSlot_ch (s : State) (i : Nat) (f : Slot → Slot) : (s.updateSlot i f).ch = s.ch := rfl
@[simp] theorem State.updateSlot_abi (s : State) (i : Nat) (f : Slot → Slot) : (s.updateSlot i f).abi = s.abi := rfl
@[simp] theorem State.updateSlot_xfBusy (s : State) (i : Nat) (f : Slot → Slot) : (s.updateSlot i f).xfBusy = s.xfBusy := rfl
@[simp] theorem State.updateSlot_xfDesc (s : State) (i : Nat) (f : Slot → Slot) : (s.updateSlot i f).xfDesc = s.xfDesc := rfl
@[simp] theorem State.updateSlot_clatch (s : State) (i : Nat) (f : Slot → Slot) : (s.updateSlot i f).clatch = s.clatch := rfl
@[simp] theorem State.updateSlot_cntDrop (s : State) (i : Nat) (f : Slot → Slot) : (s.updateSlot i f).cntDrop = s.cntDrop := rfl
@[simp] theorem State.updateSlot_cntMalformed (s : State) (i : Nat) (f : Slot → Slot) : (s.updateSlot i f).cntMalformed = s.cntMalformed := rfl
@[simp] theorem State.updateSlot_cntShort (s : State) (i : Nat) (f : Slot → Slot) : (s.updateSlot i f).cntShort = s.cntShort := rfl
@[simp] theorem State.updateSlot_cntOverflow (s : State) (i : Nat) (f : Slot → Slot) : (s.updateSlot i f).cntOverflow = s.cntOverflow := rfl
@[simp] theorem State.updateSlot_slots (s : State) (i : Nat) (f : Slot → Slot) : (s.updateSlot i f).slots = s.slots.modify i f := rfl
@[simp] theorem State.updateSlot_lut (s : State) (i : Nat) (f : Slot → Slot) : (s.updateSlot i f).lut = s.lut := rfl
@[simp] theorem State.updateSlot_hmap (s : State) (i : Nat) (f : Slot → Slot) : (s.updateSlot i f).hmap = s.hmap := rfl
@[simp] theorem State.updateSlot_vmap (s : State) (i : Nat) (f : Slot → Slot) : (s.updateSlot i f).vmap = s.vmap := rfl
@[simp] theorem State.updateSlot_obuf (s : State) (i : Nat) (f : Slot → Slot) : (s.updateSlot i f).obuf = s.obuf := rfl
@[simp] theorem State.updateSlot_obufRows (s : State) (i : Nat) (f : Slot → Slot) : (s.updateSlot i f).obufRows = s.obufRows := rfl
@[simp] theorem State.updateSlot_rxq (s : State) (i : Nat) (f : Slot → Slot) : (s.updateSlot i f).rxq = s.rxq := rfl
@[simp] theorem State.updateSlot_rxd (s : State) (i : Nat) (f : Slot → Slot) : (s.updateSlot i f).rxd = s.rxd := rfl
@[simp] theorem State.updateSlot_panel (s : State) (i : Nat) (f : Slot → Slot) : (s.updateSlot i f).panel = s.panel := rfl
@[simp] theorem State.updateSlot_issuer (s : State) (i : Nat) (f : Slot → Slot) : (s.updateSlot i f).issuer = s.issuer := rfl
@[simp] theorem State.updateSlot_turns (s : State) (i : Nat) (f : Slot → Slot) : (s.updateSlot i f).turns = s.turns := rfl
@[simp] theorem State.updateSlot_cmdq (s : State) (i : Nat) (f : Slot → Slot) : (s.updateSlot i f).cmdq = s.cmdq := rfl
@[simp] theorem State.updateSlot_air (s : State) (i : Nat) (f : Slot → Slot) : (s.updateSlot i f).air = s.air := rfl

/-! ## Reading after an update -/

@[simp] theorem State.setPortState_portState (s : State) (ps : PortState) : (s.setPortState ps).portState = ps := by
  simp [State.portState]

@[simp] theorem State.finish_portState (s : State) (code : Code) (data : Data) :
    (s.finish code data).portState = .idle := by
  simp [State.portState]

@[simp] theorem State.faultEntry_portState (s : State) (c : Cause) : (s.faultEntry c).portState = .idle := by
  simp [State.portState]

@[simp] theorem State.finish_lastResult (s : State) (code : Code) (data : Data) :
    (s.finish code data).lastResult = some (.status ⟨code, data⟩) := by
  simp [State.lastResult]

@[simp] theorem State.faultEntry_lastResult (s : State) (c : Cause) :
    (s.faultEntry c).lastResult = some (.fault c) := by
  simp [State.lastResult]

theorem State.updateSlot_slotState_self (s : State) (i : Nat) (f : Slot → Slot) :
    (s.updateSlot i f).slotState i = (s.slots[i]?).map (fun sl => (f sl).state) := by
  simp [State.slotState, Function.comp_def]

theorem State.updateSlot_slotState_ne (s : State) {i j : Nat} (h : i ≠ j) (f : Slot → Slot) :
    (s.updateSlot i f).slotState j = s.slotState j := by
  simp [State.slotState, h]

/-! ## Reset -/

/-- Every data space is in canonical form after reset: nothing is listed. -/
theorem State.resetWith_spaces_wf (c : Config) (ok : Bool) :
    (∀ sl ∈ (State.resetWith c ok).slots, Memory.wf sl.payload) ∧
    (∀ b, Memory.wf ((State.resetWith c ok).obuf.get b)) ∧ Sparse.wf (State.resetWith c ok).panel := by
  refine ⟨fun sl h => ?_, fun b => ?_, List.Pairwise.nil⟩
  · rw [List.eq_of_mem_replicate h]; exact List.Pairwise.nil
  · cases b <;> exact List.Pairwise.nil

theorem State.reset_spaces_wf :
    (∀ sl ∈ State.reset.slots, Memory.wf sl.payload) ∧ (∀ b, Memory.wf (State.reset.obuf.get b)) ∧
      Sparse.wf State.reset.panel :=
  State.resetWith_spaces_wf .test true

end Sys2Proof.Machine
end

