-- ==== Sys2Proof/Laws/Ops.lean ====
section
/-! SUPPORT. What the shared operations can do, said once: the preamble, a primitive, a composite, and `exec` over all
commands. -/

namespace Sys2Proof.Machine

/-- The pseudocode of the micro-step a command is at, without the preamble. -/
def bodyOf (i : Instr) (s : State) : Micro :=
  match i with
  | .hdrDecode b0 b1 b2 b3 b4 => hdrDecode b0 b1 b2 b3 b4 s
  | .hdrEncode fid y res cm lc => .done .ok (.bytes (encodeHeader fid y res cm lc)) s
  | .hdrCheckLen flags avail => lenCheck flags avail.toNat s
  | .rxPoll => rxPoll s
  | .pxcExpand sample => .done .ok (.pixel (expandPixel s.cfg sample)) s
  | .pxcLookup sample => pxcLookup sample s
  | .sclHmap index => mapEntry s.hmap index.toNat s
  | .sclVmap index => mapEntry s.vmap index.toNat s
  | .sclGeom res lc y => sclGeom res lc y s
  | .sclBand slot => sclBand slot.toNat s
  | .poolAcquire => poolAcquire s
  | .poolFill slot => poolFill slot.toNat s
  | .poolCommit slot => poolCommit slot.toNat s
  | .poolAbort slot => poolAbort slot.toNat s
  | .poolSelect => poolSelect s
  | .poolRelease slot => poolRelease slot.toNat s
  | .xfaWait => xfaWait s
  | .xfaPush h y => xfaPush y.toNat h.toNat s
  | .xfaDrain slot => drainStep slot.toNat s s.microStep
  | .csrRead addr => csrRead addr.toNat s
  | .seqIngest => ingestStep s s.microStep
  | .seqConsume => consumeStep s s.microStep

/-- The micro-step a command is at: 1 for a primitive. -/
def stepOf (i : Instr) (s : State) : Nat :=
  match i with
  | .xfaDrain _ => s.microStep
  | .seqIngest => s.microStep
  | .seqConsume => s.microStep
  | _ => 1

/-- The preamble lets a command through exactly when it is not turned away, its port is listed and its slot exists. -/
theorem preamble_pass {i : Instr} {s : State} (h1 : turnedAway i s = false) (h2 : allowedOn i s.issuer = true)
    (h3 : badSlotOperand s.cfg i = false) (body : Host.Outcome State Fault Refusal) : preamble i s body = body := by
  simp [preamble, h1, h2, h3]

/-- Every command not performed while halted is turned away by a halted block. -/
theorem preamble_halted {i : Instr} {s : State} (h : turnedAway i s = true) (body : Host.Outcome State Fault Refusal) :
    preamble i s body = .next (s.finish .halted .none) := by
  simp [preamble, h]

/-- A running block turns no command away. -/
theorem turnedAway_run {i : Instr} {s : State} (h : s.bstate = .run) : turnedAway i s = false := by
  simp [turnedAway, h]

theorem State.microStep_eq_one {s : State} (h : s.portState.step ≤ 1) : s.microStep = 1 := if_pos h

theorem State.microStep_eq {s : State} {k : Nat} (h : s.portState.step = k) (hk : 1 < k) : s.microStep = k := by
  simp [State.microStep, h, Nat.not_le.2 hk]

/-- What the preamble can answer: the halted status, one of its two faults, or what the body answers. -/
theorem preamble_cases {i : Instr} {s : State} {body o : Host.Outcome State Fault Refusal} (h : preamble i s body = o) :
    (turnedAway i s = true ∧ o = .next (s.finish .halted .none)) ∨
    (turnedAway i s = false ∧ allowedOn i s.issuer = false ∧ o = .next (s.faultEntry .wrongAgent)) ∨
    (turnedAway i s = false ∧ badSlotOperand s.cfg i = true ∧ o = .next (s.faultEntry .badSlot)) ∨
    (turnedAway i s = false ∧ allowedOn i s.issuer = true ∧ badSlotOperand s.cfg i = false ∧ o = body) := by
  unfold preamble at h
  by_cases h1 : turnedAway i s = true
  · simp [h1] at h; exact .inl ⟨h1, h.symm⟩
  · simp only [Bool.not_eq_true] at h1
    by_cases h2 : allowedOn i s.issuer = true
    · by_cases h3 : badSlotOperand s.cfg i = true
      · simp [h1, h2, h3] at h; exact .inr (.inr (.inl ⟨h1, h3, h.symm⟩))
      · simp only [Bool.not_eq_true] at h3
        simp [h1, h2, h3] at h; exact .inr (.inr (.inr ⟨h1, h2, h3, h.symm⟩))
    · simp only [Bool.not_eq_true] at h2
      simp [h1, h2] at h; exact .inr (.inl ⟨h1, h2, h.symm⟩)

/-- `exec` is the preamble or the later halted test around the micro-step's pseudocode. -/
theorem exec_eq (i : Instr) (s : State) :
    exec i s = if stepOf i s = 1 then preamble i s (settle i 1 s (bodyOf i s))
      else if turnedAway i s then .next (s.finish .halted .none) else settle i (stepOf i s) s (bodyOf i s) := by
  cases i
  case xfaDrain slot =>
    simp only [exec, execXfaDrain, composite, stepOf, bodyOf]; split <;> rename_i h <;> simp [h]
  case seqIngest =>
    simp only [exec, execSeqIngest, composite, stepOf, bodyOf]; split <;> rename_i h <;> simp [h]
  case seqConsume =>
    simp only [exec, execSeqConsume, composite, stepOf, bodyOf]; split <;> rename_i h <;> simp [h]
  all_goals rfl

/-- What a command can answer: the halted status, a fault of the preamble, or its micro-step's own effect. -/
theorem exec_cases {i : Instr} {s : State} {o : Host.Outcome State Fault Refusal} (h : exec i s = o) :
    (turnedAway i s = true ∧ o = .next (s.finish .halted .none)) ∨
    (stepOf i s = 1 ∧ turnedAway i s = false ∧ allowedOn i s.issuer = false ∧ o = .next (s.faultEntry .wrongAgent)) ∨
    (stepOf i s = 1 ∧ turnedAway i s = false ∧ badSlotOperand s.cfg i = true ∧ o = .next (s.faultEntry .badSlot)) ∨
    (turnedAway i s = false ∧
      (stepOf i s = 1 → allowedOn i s.issuer = true ∧ badSlotOperand s.cfg i = false) ∧
      o = settle i (stepOf i s) s (bodyOf i s)) := by
  rw [exec_eq] at h
  split at h
  · next hk =>
    rcases preamble_cases h with ⟨h1, rfl⟩ | ⟨h1, h2, rfl⟩ | ⟨h1, h2, rfl⟩ | ⟨h1, h2, h3, rfl⟩
    · exact .inl ⟨h1, rfl⟩
    · exact .inr (.inl ⟨hk, h1, h2, rfl⟩)
    · exact .inr (.inr (.inl ⟨hk, h1, h2, rfl⟩))
    · exact .inr (.inr (.inr ⟨h1, fun _ => ⟨h2, h3⟩, by rw [hk]⟩))
  · next hk =>
    by_cases h1 : turnedAway i s = true
    · rw [if_pos h1] at h; exact .inl ⟨h1, h.symm⟩
    · rw [if_neg h1] at h
      exact .inr (.inr (.inr ⟨by simpa using h1, fun e => absurd e hk, h.symm⟩))

/-- What a micro-step's effect can be when a next state is answered. -/
theorem settle_cases {i : Instr} {k : Nat} {s t : State} {m : Micro} (h : settle i k s m = .next t) :
    (∃ code data u, m = .done code data u ∧ t = u.finish code data) ∨
    (∃ sub u, m = .next sub u ∧ t = u.setPortState { cmd := some i, step := k + 1, sub := sub }) ∨
    (m = .hold ∧ t = s.setPortState { cmd := some i, step := k, sub := s.portState.sub }) ∨
    (∃ c, m = .raise c ∧ t = s.faultEntry c) := by
  cases m with
  | done code data u => injection h with h; exact .inl ⟨code, data, u, rfl, h.symm⟩
  | next sub u => injection h with h; exact .inr (.inl ⟨sub, u, rfl, h.symm⟩)
  | hold => injection h with h; exact .inr (.inr (.inl ⟨rfl, h.symm⟩))
  | raise c => injection h with h; exact .inr (.inr (.inr ⟨c, rfl, h.symm⟩))
  | stop f => cases h

/-- No command is refused. -/
theorem exec_not_refused (i : Instr) (s : State) (r : Refusal) : exec i s ≠ .refused r := by
  intro h
  rcases exec_cases h with ⟨_, e⟩ | ⟨_, _, _, e⟩ | ⟨_, _, _, e⟩ | ⟨_, _, e⟩
  · cases e
  · cases e
  · cases e
  · cases hm : bodyOf i s <;> rw [hm] at e <;> cases e

end Sys2Proof.Machine
end

