-- ==== Sys2Proof/Laws/Effects.lean ====
section
/-! SUPPORT. Everything a micro-step's pseudocode can write, said once (`Effect`): the inversion lemma of all the
commands, from which an invariant or a frame is a short case analysis. -/

namespace Sys2Proof.Machine

/-- The state a micro-step leaves when it neither holds nor faults. -/
def Micro.after : Micro → Option State
  | .done _ _ t => some t
  | .next _ t => some t
  | _ => none

@[simp] theorem Micro.after_done (code : Code) (data : Data) (t : State) : (Micro.done code data t).after = some t := rfl
@[simp] theorem Micro.after_next (sub : Option Status) (t : State) : (Micro.next sub t).after = some t := rfl
@[simp] theorem Micro.after_hold : Micro.hold.after = none := rfl
@[simp] theorem Micro.after_raise (c : Cause) : (Micro.raise c).after = none := rfl
@[simp] theorem Micro.after_stop (f : Fault) : (Micro.stop f).after = none := rfl
@[simp] theorem perform_after (m : Micro) : (perform m).after = m.after := by cases m <;> rfl
@[simp] theorem performKeeping_after (sub : Option Status) (m : Micro) : (performKeeping sub m).after = m.after := by
  cases m <;> rfl

/-- The writes of one micro-step of command `i` from `s`, with what the rule has checked before it writes. -/
inductive Effect (i : Instr) (s : State) : State → Prop where
  | same : Effect i s s
  | poll {d : Datagram} {rest : List Datagram} (hi : i = .rxPoll ∨ i = .seqIngest) (hq : s.rxq = d :: rest) :
      Effect i s { s with rxq := rest, rxd := some d }
  | discard (hi : i = .seqIngest) : Effect i s { s with cntMalformed := s.cntMalformed + 1#32, rxd := none }
  | claim {k : Nat} (hi : i = .poolAcquire ∨ i = .seqIngest) (hp : s.ph = none) (hf : firstFree s.slots = some k) :
      Effect i s { s.updateSlot k (fun sl => { sl with state := .filling, filled := false }) with ph := some k }
  | drop {r : Option Datagram} (hi : i = .poolAcquire ∨ i = .seqIngest) (hp : s.ph = none)
      (hf : firstFree s.slots = none) (hr : r = s.rxd ∨ r = none) :
      Effect i s { s with cntDrop := s.cntDrop + 1#32, rxd := r }
  | short (hi : i = .seqIngest ∨ ∃ slot, i = .poolFill slot) : Effect i s { s with cntShort := s.cntShort + 1#32 }
  | fill {k : Nat} {d : Datagram} {h : Header} (hi : i = .seqIngest ∨ ∃ slot, i = .poolFill slot)
      (hp : s.producerHolds k = true) (hf : (s.slots[k]?).any (·.filled) = false) (hd : s.rxd = some d)
      (hh : headerOf s.cfg.maxLines d = .ok h) (hl : h.expected ≤ d.length - 5)
      (hb : h.expected ≤ s.cfg.slotBytes.toNat) : Effect i s (s.updateSlot k (filledSlot h d))
  | commit {k : Nat} {r : Option Datagram} (hi : i = .seqIngest ∨ ∃ slot, i = .poolCommit slot)
      (hp : s.producerHolds k = true) (hf : (s.slots[k]?).any (·.filled) = true) (hr : r = s.rxd ∨ r = none) :
      Effect i s { s.updateSlot k (fun sl => { sl with state := .ready }) with ph := none, rxd := r }
  | abort {k : Nat} {r : Option Datagram} (hi : i = .seqIngest ∨ ∃ slot, i = .poolAbort slot)
      (hp : s.producerHolds k = true) (hr : r = s.rxd ∨ r = none) :
      Effect i s { s.updateSlot k (fun sl => { sl with state := .free, filled := false }) with ph := none, rxd := r }
  | select {k : Nat} {m : SlotMeta} (hi : i = .poolSelect ∨ i = .seqConsume) (hc : s.ch = none)
      (hs : selectSlot s.cfg s.slots = some (some k)) (hm : (s.slots[k]?).bind (·.info) = some m) :
      Effect i s { s.updateSlot k (fun sl => { sl with state := .displaying }) with ch := some k }
  | overflow {k : Nat} (hi : i = .seqConsume ∨ (∃ slot, i = .sclBand slot) ∨ ∃ slot, i = .xfaDrain slot)
      (hc : s.consumerHolds k = true) :
      Effect i s { s with cntOverflow := s.cntOverflow + 1#32,
                          clatch := some { verdict := .overflow, y := 0#8, h := 0#8 } }
  | band {k : Nat} {sl : Slot} {m : SlotMeta} {pixels : List Half}
      (hi : i = .seqConsume ∨ (∃ slot, i = .sclBand slot) ∨ ∃ slot, i = .xfaDrain slot)
      (hc : s.consumerHolds k = true) (hsl : s.slots[k]? = some sl) (hm : sl.info = some m)
      (hv : (slotGeom s.cfg m).verdict ≠ .overflow)
      (hpx : bandPixels s m sl.payload (slotGeom s.cfg m).h = some pixels) :
      Effect i s { s with
        obuf := s.obuf.set (!s.abi)
          (Sparse.write (s.obuf.get (!s.abi)) 0 (pixels.flatMap (pixelBytes s.cfg.pixelOrder)))
        obufRows := s.obufRows.set (!s.abi) (BitVec.ofNat 8 (slotGeom s.cfg m).h)
        clatch := some { verdict := (slotGeom s.cfg m).verdict, y := BitVec.ofNat 8 (slotGeom s.cfg m).y,
                         h := BitVec.ofNat 8 (slotGeom s.cfg m).h } }
  | release {k : Nat} (hi : i = .seqConsume ∨ (∃ slot, i = .poolRelease slot) ∨ ∃ slot, i = .xfaDrain slot)
      (hc : s.consumerHolds k = true) :
      Effect i s { s.updateSlot k (fun sl => { sl with state := .free }) with ch := none }
  | push {y h : Nat} (hi : i = .seqConsume ∨ (∃ n y, i = .xfaPush n y) ∨ ∃ slot, i = .xfaDrain slot)
      (hx : s.xfBusy = false) (hb : badRectangle s y h = false) :
      Effect i s { s with
        xfDesc := { y := BitVec.ofNat 8 y, h := BitVec.ofNat 8 h, buf := !s.abi }
        xfBusy := true
        abi := !s.abi
        panel := Sparse.erase s.panel (240 * y) (240 * h) }

theorem hdrDecode_after {b0 b1 b2 b3 b4 : Byte} {s u : State} (h : (hdrDecode b0 b1 b2 b3 b4 s).after = some u) :
    u = s := by
  unfold hdrDecode at h; split at h <;> simpa using h.symm

theorem lenCheck_after {flags : Byte} {n : Nat} {s u : State} (h : (lenCheck flags n s).after = some u) : u = s := by
  unfold lenCheck at h
  split at h
  · simpa using h.symm
  · split at h <;> simpa using h.symm

theorem pxcLookup_after {sample : Byte} {s u : State} (h : (pxcLookup sample s).after = some u) : u = s := by
  unfold pxcLookup at h; split at h <;> simp at h; exact h.symm

theorem mapEntry_after {map : List Byte} {n : Nat} {s u : State} (h : (mapEntry map n s).after = some u) : u = s := by
  unfold mapEntry at h
  split at h
  · simp at h
  · split at h <;> simp at h; exact h.symm

theorem sclGeom_after {res : BitVec 2} {lc : BitVec 4} {y : Half} {s u : State}
    (h : (sclGeom res lc y s).after = some u) : u = s := by
  unfold sclGeom at h; split at h <;> simpa using h.symm

theorem csrRead_after {addr : Nat} {s u : State} (h : (csrRead addr s).after = some u) : u = s := by
  unfold csrRead at h
  split at h
  · simp at h
  · split at h
    · simpa using h.symm
    · split at h
      · split at h <;> simp at h; exact h.symm
      · simp at h

theorem xfaWait_after {s u : State} (h : (xfaWait s).after = some u) : u = s := by
  unfold xfaWait at h; split at h <;> simp at h; exact h.symm

theorem rxPoll_after {i : Instr} {s u : State} (hi : i = .rxPoll) (h : (rxPoll s).after = some u) : Effect i s u := by
  unfold rxPoll at h
  split at h
  · simp at h; subst h; exact .same
  · next hq => simp at h; subst h; exact .poll (.inl hi) hq

theorem poolAcquire_after {i : Instr} {s u : State} (hi : i = .poolAcquire ∨ i = .seqIngest)
    (h : (poolAcquire s).after = some u) : Effect i s u := by
  unfold poolAcquire at h
  split at h
  · simp at h
  · next hp =>
    have hp : s.ph = none := by simpa using hp
    split at h
    · next k hf => simp at h; subst h; exact .claim hi hp hf
    · next hf => simp at h; subst h; exact .drop (r := s.rxd) hi hp hf (.inl rfl)

theorem poolFill_after {i : Instr} {k : Nat} {s u : State} (hi : i = .seqIngest ∨ ∃ slot, i = .poolFill slot)
    (h : (poolFill k s).after = some u) : Effect i s u := by
  unfold poolFill at h
  split at h
  · simp at h
  · next hp =>
    simp only [Bool.or_eq_true, Bool.not_eq_true', not_or, Bool.not_eq_false, Bool.not_eq_true] at hp
    split at h
    · simp at h
    · next d hd =>
      split at h
      · simp at h; subst h; exact .same
      · next hdr hh =>
        dsimp only at h
        split at h
        · simp at h; subst h; exact .short hi
        · next hl =>
          split at h
          · simp at h
          · next hb => simp at h; subst h; exact .fill hi hp.1 hp.2 hd hh (by omega) (by omega)

theorem poolCommit_after {k : Nat} {s u : State} (h : (poolCommit k s).after = some u) :
    s.producerHolds k = true ∧ (s.slots[k]?).any (·.filled) = true ∧
      u = { s.updateSlot k (fun sl => { sl with state := .ready }) with ph := none } := by
  unfold poolCommit at h
  split at h
  · simp at h
  · next hp =>
    simp only [Bool.or_eq_true, Bool.not_eq_true', not_or, Bool.not_eq_false] at hp
    simp at h
    exact ⟨hp.1, hp.2, h.symm⟩

theorem poolAbort_after {k : Nat} {s u : State} (h : (poolAbort k s).after = some u) :
    s.producerHolds k = true ∧
      u = { s.updateSlot k (fun sl => { sl with state := .free, filled := false }) with ph := none } := by
  unfold poolAbort at h
  split at h
  · simp at h
  · next hp => simp at h; exact ⟨by simpa using hp, h.symm⟩

theorem poolSelect_after {i : Instr} {s u : State} (hi : i = .poolSelect ∨ i = .seqConsume)
    (h : (poolSelect s).after = some u) : Effect i s u := by
  unfold poolSelect at h
  split at h
  · simp at h
  · next hc =>
    have hc : s.ch = none := by simpa using hc
    split at h
    · simp at h
    · simp at h; subst h; exact .same
    · next k hs =>
      split at h
      · simp at h
      · next m hm => simp at h; subst h; exact .select hi hc hs hm

theorem poolRelease_after {i : Instr} {k : Nat} {s u : State}
    (hi : i = .seqConsume ∨ (∃ slot, i = .poolRelease slot) ∨ ∃ slot, i = .xfaDrain slot)
    (h : (poolRelease k s).after = some u) : Effect i s u := by
  unfold poolRelease at h
  split at h
  · simp at h
  · next hp => simp at h; subst h; exact .release hi (by simpa using hp)

theorem sclBand_after {i : Instr} {k : Nat} {s u : State}
    (hi : i = .seqConsume ∨ (∃ slot, i = .sclBand slot) ∨ ∃ slot, i = .xfaDrain slot)
    (h : (sclBand k s).after = some u) : Effect i s u := by
  unfold sclBand at h
  split at h
  · simp at h
  · next hc =>
    have hc : s.consumerHolds k = true := by simpa using hc
    split at h
    · simp at h
    · next sl hsl =>
      split at h
      · simp at h
      · next m hm =>
        dsimp only at h
        split at h
        · simp at h; subst h; exact .overflow hi hc
        · next hv =>
          split at h
          · simp at h
          · next px hpx => simp at h; subst h; exact .band hi hc hsl hm hv hpx

theorem xfaPush_after {i : Instr} {y n : Nat} {s u : State}
    (hi : i = .seqConsume ∨ (∃ n y, i = .xfaPush n y) ∨ ∃ slot, i = .xfaDrain slot)
    (h : (xfaPush y n s).after = some u) : Effect i s u := by
  unfold xfaPush at h
  split at h
  · simp at h
  · next hx =>
    split at h
    · simp at h
    · next hb => simp at h; subst h; exact .push hi (by simpa using hx) (by simpa using hb)

theorem pushDrained_after {i : Instr} {k : Nat} {s u : State} (hi : i = .seqConsume ∨ ∃ slot, i = .xfaDrain slot)
    (h : (pushDrained k s).after = some u) : Effect i s u := by
  unfold pushDrained at h
  split at h
  · simp at h
  · next l _ =>
    split at h
    · apply xfaPush_after (y := l.y.toNat) (n := l.h.toNat) (hi.elim .inl fun e => .inr (.inr e))
      split at h
      · next e => rw [e]; simpa using h
      · exact h
    · simp at h; subst h; exact .same

theorem drainStep_after {slot : BitVec 8} {k : Nat} {s u : State} (h : (drainStep slot.toNat s k).after = some u) :
    Effect (.xfaDrain slot) s u := by
  unfold drainStep at h
  split at h
  · split at h <;> simp at h; subst h; exact .same
  · split at h <;> simp at h; subst h; exact .same
  · exact sclBand_after (.inr (.inr ⟨slot, rfl⟩)) (by simpa using h)
  · exact poolRelease_after (.inr (.inr ⟨slot, rfl⟩)) (by simpa using h)
  · exact pushDrained_after (.inr ⟨slot, rfl⟩) h

theorem ingestEnd_after {s u : State} (h : (ingestEnd s).after = some u) : Effect .seqIngest s u := by
  unfold ingestEnd at h
  split at h
  · next k _ _ _ =>
    split at h
    · next e =>
      have := poolCommit_after (k := k) (s := s) (by rw [e]; rfl)
      obtain ⟨hp, hf, rfl⟩ := this
      simp at h; subst h
      exact .commit (.inl rfl) hp hf (.inr rfl)
    · simp at h
    · next e =>
      obtain ⟨hp, hf, rfl⟩ := poolCommit_after h
      exact .commit (r := s.rxd) (.inl rfl) hp hf (.inl rfl)
  · next k _ _ _ _ _ =>
    split at h
    · next e =>
      obtain ⟨hp, rfl⟩ := poolAbort_after (k := k) (s := s) (by rw [e]; rfl)
      simp at h; subst h
      exact .abort (.inl rfl) hp (.inr rfl)
    · obtain ⟨hp, rfl⟩ := poolAbort_after h
      exact .abort (r := s.rxd) (.inl rfl) hp (.inl rfl)
  · simp at h
  · simp at h

theorem ingestAcquire_after {s u : State} (h : (ingestAcquire s).after = some u) : Effect .seqIngest s u := by
  unfold ingestAcquire at h
  split at h
  · next t e =>
    simp at h; subst h
    unfold poolAcquire at e
    split at e
    · cases e
    · next hp =>
      split at e
      · cases e
      · next hf => cases e; exact .drop (.inr rfl) (by simpa using hp) hf (.inr rfl)
  · exact poolAcquire_after (.inr rfl) (by simpa using h)

theorem ingestStep_after {k : Nat} {s u : State} (h : (ingestStep s k).after = some u) : Effect .seqIngest s u := by
  unfold ingestStep at h
  split at h
  · unfold ingestPoll at h
    split at h
    · simp at h
    · split at h
      · simp at h; subst h; exact .same
      · next hq => simp at h; subst h; exact .poll (.inr rfl) hq
  · unfold ingestCheck at h
    split at h
    · simp at h
    · split at h <;> simp at h <;> subst h
      · exact .discard rfl
      · exact .same
  · exact ingestAcquire_after h
  · unfold ingestFill at h
    split at h
    · simp at h
    · exact poolFill_after (.inl rfl) (by simpa using h)
  · exact ingestEnd_after h

theorem consumeStep_after {k : Nat} {s u : State} (h : (consumeStep s k).after = some u) :
    Effect .seqConsume s u := by
  unfold consumeStep at h
  split at h
  · unfold consumeSelect at h
    apply poolSelect_after (.inr rfl)
    split at h
    · next e => rw [e]; simpa using h
    · simpa using h
  · split at h <;> simp at h; subst h; exact .same
  · rw [performKeeping_after] at h
    unfold onHeldSlot at h
    split at h
    · simp at h
    · exact sclBand_after (.inl rfl) h
  · rw [performKeeping_after] at h
    unfold onHeldSlot at h
    split at h
    · simp at h
    · exact poolRelease_after (.inl rfl) h
  · unfold consumeEnd at h
    split at h
    · exact pushDrained_after (.inl rfl) h
    · simp at h

/-- Every state a micro-step leaves is one of the effects of its command. -/
theorem bodyOf_after {i : Instr} {s u : State} (h : (bodyOf i s).after = some u) : Effect i s u := by
  cases i with
  | hdrDecode => exact hdrDecode_after h ▸ .same
  | hdrEncode => simp [bodyOf] at h; subst h; exact .same
  | hdrCheckLen => exact lenCheck_after h ▸ .same
  | rxPoll => exact rxPoll_after rfl h
  | pxcExpand => simp [bodyOf] at h; subst h; exact .same
  | pxcLookup => exact pxcLookup_after h ▸ .same
  | sclHmap => exact mapEntry_after h ▸ .same
  | sclVmap => exact mapEntry_after h ▸ .same
  | sclGeom => exact sclGeom_after h ▸ .same
  | sclBand slot => exact sclBand_after (.inr (.inl ⟨slot, rfl⟩)) h
  | poolAcquire => exact poolAcquire_after (.inl rfl) h
  | poolFill slot => exact poolFill_after (.inr ⟨slot, rfl⟩) h
  | poolCommit slot =>
    obtain ⟨hp, hf, rfl⟩ := poolCommit_after h
    exact .commit (r := s.rxd) (.inr ⟨slot, rfl⟩) hp hf (.inl rfl)
  | poolAbort slot =>
    obtain ⟨hp, rfl⟩ := poolAbort_after h
    exact .abort (r := s.rxd) (.inr ⟨slot, rfl⟩) hp (.inl rfl)
  | poolSelect => exact poolSelect_after (.inl rfl) h
  | poolRelease slot => exact poolRelease_after (.inr (.inl ⟨slot, rfl⟩)) h
  | xfaWait => exact xfaWait_after h ▸ .same
  | xfaPush n y => exact xfaPush_after (.inr (.inl ⟨n, y, rfl⟩)) h
  | xfaDrain slot => exact drainStep_after h
  | csrRead => exact csrRead_after h ▸ .same
  | seqIngest => exact ingestStep_after h
  | seqConsume => exact consumeStep_after h

/-- Every next state of a command: an effect of it, with its port's progress and result written, or the block halted. -/
theorem exec_next {i : Instr} {s t : State} (h : exec i s = .next t) :
    (∃ u code data, Effect i s u ∧ t = u.finish code data) ∨
    (∃ u ps, Effect i s u ∧ t = u.setPortState ps) ∨
    (∃ c, t = s.faultEntry c) := by
  rcases exec_cases h with ⟨_, e⟩ | ⟨_, _, _, e⟩ | ⟨_, _, _, e⟩ | ⟨_, _, e⟩
  · injection e with e; exact .inl ⟨s, _, _, .same, e⟩
  · injection e with e; exact .inr (.inr ⟨_, e⟩)
  · injection e with e; exact .inr (.inr ⟨_, e⟩)
  · rcases settle_cases e.symm with ⟨code, data, u, hm, rfl⟩ | ⟨sub, u, hm, rfl⟩ | ⟨_, rfl⟩ | ⟨c, _, rfl⟩
    · exact .inl ⟨u, code, data, bodyOf_after (by rw [hm]; rfl), rfl⟩
    · exact .inr (.inl ⟨u, _, bodyOf_after (by rw [hm]; rfl), rfl⟩)
    · exact .inr (.inl ⟨s, _, .same, rfl⟩)
    · exact .inr (.inr ⟨c, rfl⟩)

end Sys2Proof.Machine
end

