-- ==== Sys2Proof/Laws/PerInstr.lean ====
section
/-! SUPPORT. Reading a field of a word built by concatenation, and a statement about every command as syntax, one lemma per
constructor: the first word of its encoding carries its opcode and fixes its length (30_encoding R74), its slot operand
is bits 23..16 of that word (R76), and some port may issue it (R83). -/

namespace Sys2Proof.Laws

/-- A field inside the upper part. -/
theorem extract_upper {a b : Nat} (x : BitVec a) (y : BitVec b) {lo n : Nat} (h : b ≤ lo) :
    (x ++ y).extractLsb' lo n = x.extractLsb' (lo - b) n := by
  apply BitVec.eq_of_getLsbD_eq
  intro i hi
  have : ¬ lo + i < b := by omega
  simp [BitVec.getLsbD_append, this, Nat.sub_add_comm h]

/-- A field inside the lower part. -/
theorem extract_lower {a b : Nat} (x : BitVec a) (y : BitVec b) {lo n : Nat} (h : lo + n ≤ b) :
    (x ++ y).extractLsb' lo n = y.extractLsb' lo n := by
  apply BitVec.eq_of_getLsbD_eq
  intro i hi
  have : lo + i < b := by omega
  simp [BitVec.getLsbD_append, this]

/-- A field that is the whole. -/
theorem extract_whole {a : Nat} (x : BitVec a) : x.extractLsb' 0 a = x := by simp

end Sys2Proof.Laws

namespace Sys2Proof.Laws.EncodedShape

open Sys2Proof.Machine

def Statement (i : Instr) : Prop :=
  ∃ w0 more, encode i = w0 :: more ∧ opcodeOf w0 = i.opcode ∧ commandLength w0 = more.length + 1 ∧
    (∀ s, slotOperand i = some s → w0.extractLsb' 16 8 = s) ∧ allowedOn i (somePort i) = true

theorem opcode_f0 (op : BitVec 8) : opcodeOf (op ++ 0#24) = op := by
  rw [opcodeOf, extract_upper _ _ (by decide)]; exact extract_whole op

theorem opcode_fs (op slot : BitVec 8) : opcodeOf (op ++ slot ++ 0#16) = op := by
  rw [opcodeOf, extract_upper _ _ (by decide), extract_upper _ _ (by decide)]; exact extract_whole op

theorem slot_fs (op slot : BitVec 8) : (op ++ slot ++ 0#16).extractLsb' 16 8 = slot := by
  rw [extract_upper _ _ (by decide), extract_lower _ _ (by decide)]; exact extract_whole slot

/-- A command whose opcode is not that of HDR_DECODE or HDR_ENCODE has one word. -/
theorem length_one {w0 : Word} {op : BitVec 8} (h : opcodeOf w0 = op) (h1 : op ≠ 0x10#8) (h2 : op ≠ 0x11#8) :
    commandLength w0 = 1 := by
  rw [commandLength, h, if_neg]; simp [h1, h2]

theorem length_two {w0 : Word} {op : BitVec 8} (h : opcodeOf w0 = op) (h1 : op = 0x10#8 ∨ op = 0x11#8) :
    commandLength w0 = 2 := by
  rw [commandLength, h, if_pos h1]

/-- A one-word command, its opcode read right. -/
theorem one_word {i : Instr} {w0 : Word} (he : encode i = [w0]) (ho : opcodeOf w0 = i.opcode) (h1 : i.opcode ≠ 0x10#8)
    (h2 : i.opcode ≠ 0x11#8) (hs : ∀ s, slotOperand i = some s → w0.extractLsb' 16 8 = s)
    (hp : allowedOn i (somePort i) = true) : Statement i :=
  ⟨w0, [], he, ho, length_one ho h1 h2, hs, hp⟩

/-- A command of format F0. -/
theorem of_f0 {i : Instr} (he : encode i = encodeF0 i.opcode) (h1 : i.opcode ≠ 0x10#8) (h2 : i.opcode ≠ 0x11#8)
    (hs : slotOperand i = none) (hp : allowedOn i (somePort i) = true) : Statement i :=
  one_word he (opcode_f0 _) h1 h2 (by simp [hs]) hp

/-- A command of format FS. -/
theorem of_fs {i : Instr} {slot : BitVec 8} (he : encode i = encodeFS i.opcode slot) (h1 : i.opcode ≠ 0x10#8)
    (h2 : i.opcode ≠ 0x11#8) (hs : slotOperand i = some slot) (hp : allowedOn i (somePort i) = true) : Statement i :=
  one_word he (opcode_fs _ _) h1 h2 (fun s e => by rw [hs] at e; cases e; exact slot_fs _ _) hp

theorem hdrDecode (b0 b1 b2 b3 b4 : BitVec 8) : Statement (.hdrDecode b0 b1 b2 b3 b4) := by
  have ho : opcodeOf (0x10#8 ++ b4 ++ b2 ++ b3) = 0x10#8 := by
    rw [opcodeOf, extract_upper _ _ (by decide), extract_upper _ _ (by decide), extract_upper _ _ (by decide)]
    exact extract_whole _
  exact ⟨_, _, rfl, ho, length_two ho (.inl rfl), by simp [slotOperand], rfl⟩

theorem hdrEncode (fid y : BitVec 16) (res cm : BitVec 2) (lc : BitVec 4) : Statement (.hdrEncode fid y res cm lc) := by
  have ho : opcodeOf (0x11#8 ++ res ++ cm ++ lc ++ y) = 0x11#8 := by
    rw [opcodeOf, extract_upper _ _ (by decide), extract_upper _ _ (by decide), extract_upper _ _ (by decide),
      extract_upper _ _ (by decide)]
    exact extract_whole _
  exact ⟨_, _, rfl, ho, length_two ho (.inr rfl), by simp [slotOperand], rfl⟩

theorem hdrCheckLen (flags : BitVec 8) (avail : BitVec 16) : Statement (.hdrCheckLen flags avail) := by
  refine one_word rfl ?_ (by simp [Instr.opcode]) (by simp [Instr.opcode]) (by simp [slotOperand]) rfl
  rw [opcodeOf, extract_upper _ _ (by decide), extract_upper _ _ (by decide)]
  exact extract_whole _

theorem rxPoll : Statement .rxPoll := of_f0 rfl (by decide) (by decide) rfl rfl

theorem pxcExpand (sample : BitVec 8) : Statement (.pxcExpand sample) := by
  refine one_word rfl ?_ (by simp [Instr.opcode]) (by simp [Instr.opcode]) (by simp [slotOperand]) rfl
  rw [opcodeOf, extract_upper _ _ (by decide), extract_upper _ _ (by decide)]
  exact extract_whole _

theorem pxcLookup (sample : BitVec 8) : Statement (.pxcLookup sample) := by
  refine one_word rfl ?_ (by simp [Instr.opcode]) (by simp [Instr.opcode]) (by simp [slotOperand]) rfl
  rw [opcodeOf, extract_upper _ _ (by decide), extract_upper _ _ (by decide)]
  exact extract_whole _

theorem sclHmap (index : BitVec 16) : Statement (.sclHmap index) := by
  refine one_word rfl ?_ (by simp [Instr.opcode]) (by simp [Instr.opcode]) (by simp [slotOperand]) rfl
  rw [opcodeOf, extract_upper _ _ (by decide), extract_upper _ _ (by decide)]
  exact extract_whole _

theorem sclVmap (index : BitVec 16) : Statement (.sclVmap index) := by
  refine one_word rfl ?_ (by simp [Instr.opcode]) (by simp [Instr.opcode]) (by simp [slotOperand]) rfl
  rw [opcodeOf, extract_upper _ _ (by decide), extract_upper _ _ (by decide)]
  exact extract_whole _

theorem sclGeom (res : BitVec 2) (lc : BitVec 4) (y : BitVec 16) : Statement (.sclGeom res lc y) := by
  refine one_word rfl ?_ (by simp [Instr.opcode]) (by simp [Instr.opcode]) (by simp [slotOperand]) rfl
  rw [opcodeOf, extract_upper _ _ (by decide), extract_upper _ _ (by decide), extract_upper _ _ (by decide),
    extract_upper _ _ (by decide)]
  exact extract_whole _

theorem sclBand (slot : BitVec 8) : Statement (.sclBand slot) :=
  of_fs rfl (by simp [Instr.opcode]) (by simp [Instr.opcode]) rfl rfl

theorem poolAcquire : Statement .poolAcquire := of_f0 rfl (by decide) (by decide) rfl rfl

theorem poolFill (slot : BitVec 8) : Statement (.poolFill slot) :=
  of_fs rfl (by simp [Instr.opcode]) (by simp [Instr.opcode]) rfl rfl

theorem poolCommit (slot : BitVec 8) : Statement (.poolCommit slot) :=
  of_fs rfl (by simp [Instr.opcode]) (by simp [Instr.opcode]) rfl rfl

theorem poolAbort (slot : BitVec 8) : Statement (.poolAbort slot) :=
  of_fs rfl (by simp [Instr.opcode]) (by simp [Instr.opcode]) rfl rfl

theorem poolSelect : Statement .poolSelect := of_f0 rfl (by decide) (by decide) rfl rfl

theorem poolRelease (slot : BitVec 8) : Statement (.poolRelease slot) :=
  of_fs rfl (by simp [Instr.opcode]) (by simp [Instr.opcode]) rfl rfl

theorem xfaWait : Statement .xfaWait := of_f0 rfl (by decide) (by decide) rfl rfl

theorem xfaPush (h : BitVec 8) (y : BitVec 16) : Statement (.xfaPush h y) := by
  refine one_word rfl ?_ (by simp [Instr.opcode]) (by simp [Instr.opcode]) (by simp [slotOperand]) rfl
  rw [opcodeOf, extract_upper _ _ (by decide), extract_upper _ _ (by decide)]
  exact extract_whole _

theorem xfaDrain (slot : BitVec 8) : Statement (.xfaDrain slot) :=
  of_fs rfl (by simp [Instr.opcode]) (by simp [Instr.opcode]) rfl rfl

theorem csrRead (addr : BitVec 12) : Statement (.csrRead addr) := by
  refine one_word rfl ?_ (by simp [Instr.opcode]) (by simp [Instr.opcode]) (by simp [slotOperand]) rfl
  rw [opcodeOf, extract_upper _ _ (by decide), extract_upper _ _ (by decide)]
  exact extract_whole _

theorem seqIngest : Statement .seqIngest := of_f0 rfl (by decide) (by decide) rfl rfl

theorem seqConsume : Statement .seqConsume := of_f0 rfl (by decide) (by decide) rfl rfl

end Sys2Proof.Laws.EncodedShape
end

