-- ==== Sys2Proof/Laws/Step.lean ====
section
/-! SUPPORT. Everything a step of the whole machine can do, said once: no turn left, or the turn of a port, of the ENGINE,
of the TRANSPORT, or of the environment. -/

namespace Sys2Proof.Machine

/-- What the turn of port `p` leaves, from the state `u` in which the turn is spent: nothing to do (or a command not yet
delivered whole), a command turned away, words that are no command, or one micro-step of a command. -/
theorem portTurn_cases {p : Port} {u t : State} (h : portTurn exec p u = .next t) :
    t = { u with issuer := p } ∨
    (∃ q, (u.port.get p).cmd = none ∧ t = State.finish { u with issuer := p, cmdq := q } .halted .none) ∨
    (∃ q, (u.port.get p).cmd = none ∧ t = State.faultEntry { u with issuer := p, cmdq := q } .illegalCmd) ∨
    (∃ i, (u.port.get p).cmd = some i ∧ exec i { u with issuer := p } = .next t) ∨
    ∃ q i, (u.port.get p).cmd = none ∧ exec i { u with issuer := p, cmdq := q } = .next t := by
  simp only [portTurn] at h
  split at h
  · next i hi => exact .inr (.inr (.inr (.inl ⟨i, hi, h⟩)))
  · next hi =>
    unfold acceptCommand at h
    split at h
    · cases h; exact .inl rfl
    · split at h
      · cases h; exact .inl rfl
      · dsimp only at h
        split at h
        · cases h; exact .inr (.inl ⟨_, hi, rfl⟩)
        · split at h
          · cases h; exact .inr (.inr (.inl ⟨_, hi, rfl⟩))
          · exact .inr (.inr (.inr (.inr ⟨_, _, hi, h⟩)))

/-- What the ENGINE's turn leaves: nothing to retire, an `undef` byte, or the retired rectangle (44_transfer R138). -/
theorem engineRetire_cases {u t : State} (h : engineRetire u = .next t) :
    (u.xfBusy = false ∧ t = u) ∨
    (u.xfBusy = true ∧ bufferPixels u.cfg.pixelOrder (u.obuf.get u.xfDesc.buf) u.xfDesc.h.toNat = none ∧
      t = u.halt .undef) ∨
    ∃ pixels, u.xfBusy = true ∧ u.xfDesc.y.toNat + u.xfDesc.h.toNat ≤ 240 ∧ pixels.length = 240 * u.xfDesc.h.toNat ∧
      bufferPixels u.cfg.pixelOrder (u.obuf.get u.xfDesc.buf) u.xfDesc.h.toNat = some pixels ∧
      t = { u with panel := Sparse.write u.panel (240 * u.xfDesc.y.toNat) pixels, xfBusy := false } := by
  unfold engineRetire at h
  split at h
  · next hx => cases h; exact .inl ⟨by simpa using hx, rfl⟩
  · next hx =>
    have hx : u.xfBusy = true := by simpa using hx
    split at h
    · cases h
    · next hg =>
      split at h
      · next hp => cases h; exact .inr (.inl ⟨hx, hp, rfl⟩)
      · next pixels hp =>
        cases h
        exact .inr (.inr ⟨pixels, hx, by omega, by simpa using allDefined_length hp, hp, rfl⟩)

/-- What a step can do. -/
theorem step_cases {s t : State} (h : step s = .next t) :
    s.cfg.wellFormed = true ∧
    ((s.turns = [] ∧ t = s) ∨
      ∃ turn rest, s.turns = turn :: rest ∧
        ((∃ p, turn = .port p ∧ portTurn exec p { s with turns := rest } = .next t) ∨
          (turn = .engine ∧ engineRetire { s with turns := rest } = .next t) ∨
          (turn = .transport ∧ t = transportStep { s with turns := rest }) ∨
          ∃ ok, turn = .reset ok ∧ t = State.again { s with turns := rest } ok)) := by
  unfold step takeTurn at h
  split at h
  · cases h
  · next hw =>
    refine ⟨by simpa using hw, ?_⟩
    split at h
    · next ht => cases h; exact .inl ⟨ht, rfl⟩
    · next turn rest ht =>
      refine .inr ⟨turn, rest, ht, ?_⟩
      cases turn with
      | port p => exact .inl ⟨p, rfl, h⟩
      | engine => exact .inr (.inl ⟨rfl, h⟩)
      | transport => injection h with h; exact .inr (.inr (.inl ⟨rfl, h.symm⟩))
      | reset ok => injection h with h; exact .inr (.inr (.inr ⟨ok, rfl, h.symm⟩))

/-- A machine with a well-formed configuration is not refused. -/
theorem step_not_refused {s : State} (hw : s.cfg.wellFormed = true) (r : Refusal) : step s ≠ .refused r := by
  unfold step takeTurn
  rw [hw]
  simp only [Bool.not_true, Bool.false_eq_true, if_false]
  split
  · simp
  · next turn rest _ =>
    cases turn with
    | port p =>
      simp only [moveAgent, portTurn]
      split
      · exact exec_not_refused _ _ _
      · unfold acceptCommand
        split
        · simp
        · split
          · simp
          · dsimp only
            split
            · simp
            · split
              · simp
              · exact exec_not_refused _ _ _
    | engine =>
      simp only [moveAgent, engineRetire]
      split
      · simp
      · split
        · simp
        · split <;> simp
    | transport => simp [moveAgent]
    | reset ok => simp [moveAgent]

end Sys2Proof.Machine
end

