-- ==== Sys2Proof/Tests/Slice0.lean ====
section
/-! SUPPORT. Tests. Expected values are those of spec/95_test_vectors.md, or are worked out by hand from the rule named.
A theorem `test_witness_<Name>` shows states and operands that meet the hypotheses of `Obligations.<Name>`, clause by
clause. -/

namespace Sys2Proof.Tests

open Sys2Proof Sys2Proof.Machine Sys2Proof.Safety

/-! ## Helpers -/

/-- A small well-formed configuration. -/
def small : Config := { Config.test with slotCount := 2, maxLines := 2, outRows := 4, slotBytes := 960#32 }

/-- Right after reset with the small configuration. -/
def base : State := State.resetWith small true

/-- Right after a reset whose storage could not be allocated. -/
def dead : State := State.resetWith small false

/-- The state with a port issuing. -/
def onPort (p : Port) (s : State) : State := { s with issuer := p }

/-- The state with the turns to come. -/
def atTurn (turns : List Turn) (s : State) : State := { s with turns := turns }

/-- The result a command answers on its port. -/
def answer (i : Instr) (s : State) : Option Result :=
  match exec i s with
  | .next t => t.lastResult
  | _ => none

/-- One field of the state a command leaves. -/
def field {α : Type} (f : State → α) (i : Instr) (s : State) : Option α :=
  match exec i s with
  | .next t => some (f t)
  | _ => none

/-- One field of the state a step leaves. -/
def stepField {α : Type} (f : State → α) (s : State) : Option α :=
  match step s with
  | .next t => some (f t)
  | _ => none

/-- Metadata of a band at row 0 of frame 7. -/
def bandInfo (w : SrcWidth) (lines : BitVec 8) (full : Bool) : SlotMeta where
  frameId := 7#16
  srcY0 := 0#16
  srcWidth := w
  srcLineCount := lines
  isFullDepth := full

/-- A slot that holds a whole band of constant bytes. -/
def bandSlot (st : SlotState) (w : SrcWidth) (lines : BitVec 8) (full : Bool) : Slot where
  state := st
  filled := true
  info := some (bandInfo w lines full)
  payload := Sparse.cells 0 (List.replicate (payloadBytes w lines.toNat full) 0x49#8)

/-- The CONSUMER holds such a slot in `Displaying`. -/
def holding (w : SrcWidth) (lines : BitVec 8) (full : Bool) : State :=
  { base with issuer := .consumer, ch := some 0, slots := [bandSlot .displaying w lines full, .reset] }

/-- The PRODUCER holds slot 0 in `Filling` and the datagram `d`. -/
def filling (filled : Bool) (d : Option Datagram) : State :=
  { base with issuer := .producer, ph := some 0, slots := [{ Slot.reset with state := .filling, filled := filled }, .reset],
              rxd := d }

/-- A whole datagram: one line, 120 wide, one byte a pixel (flags `91`), frame 1, row 0. -/
def datagram : Datagram := [0x00#8, 0x01#8, 0x00#8, 0x00#8, 0x91#8] ++ List.replicate 120 0x49#8

/-- Its header. -/
def header : Header where
  frameId := 1#16
  yStart := 0#16
  resolution := 2#2
  colorMode := 1#2
  lineCount := 1#4
  sourceWidth := .w120
  bytesPerPixel := 1
  isFullDepth := false
  expected := 120

theorem holdsBand_bandSlot {c : Config} {st : SlotState} {w : SrcWidth} {lines : BitVec 8} {full : Bool}
    (h1 : 1 ≤ lines.toNat) (h2 : lines.toNat ≤ c.maxLines) : HoldsBand c (bandSlot st w lines full) := by
  refine ⟨bandInfo w lines full, rfl, h1, h2, fun k hk => ?_⟩
  have hk : k < payloadBytes w lines.toNat full := hk
  simp [bandSlot, Sparse.read_cells, hk]

/-! ## Well-formedness: one ill-formed configuration for each check (00_scope R7) -/

theorem test_wellFormed_test : Config.test.wellFormed = true := by decide
theorem test_wellFormed_small : small.wellFormed = true := by decide
theorem test_no_slot : ({ small with slotCount := 0 } : Config).wellFormed = false := by decide
theorem test_too_many_slots : ({ small with slotCount := 257 } : Config).wellFormed = false := by decide
theorem test_no_line : ({ small with maxLines := 0 } : Config).wellFormed = false := by decide
theorem test_too_many_lines :
    ({ small with maxLines := 16, outRows := 16, slotBytes := 7680#32 } : Config).wellFormed = false := by decide
theorem test_too_few_rows : ({ small with outRows := 1 } : Config).wellFormed = false := by decide
theorem test_too_many_rows : ({ small with outRows := 256 } : Config).wellFormed = false := by decide
theorem test_slot_too_small : ({ small with slotBytes := 959#32 } : Config).wellFormed = false := by decide
theorem test_ill_formed_refused :
    step (State.resetWith { small with slotCount := 0 } true) = .refused .illFormedConfig := rfl

/-! ## Decoding: words written out from the formats of 30_encoding R75 to R83 -/

theorem test_decode_hdrDecode :
    decode [0x105100EF#32, 0x00001234#32] = .ok (.hdrDecode 0x12#8 0x34#8 0x00#8 0xEF#8 0x51#8, []) := by decide
theorem test_decode_hdrEncode :
    decode [0x115100EF#32, 0x00001234#32] = .ok (.hdrEncode 4660#16 239#16 1#2 1#2 1#4, []) := by decide
theorem test_decode_hdrCheckLen : decode [0x120503E8#32] = .ok (.hdrCheckLen 0x05#8 1000#16, []) := by decide
theorem test_decode_rxPoll : decode [0x13000000#32] = .ok (.rxPoll, []) := by decide
theorem test_decode_pxcExpand : decode [0x20000078#32] = .ok (.pxcExpand 0x78#8, []) := by decide
theorem test_decode_pxcLookup : decode [0x21000078#32] = .ok (.pxcLookup 0x78#8, []) := by decide
theorem test_decode_sclHmap : decode [0x300000EF#32] = .ok (.sclHmap 239#16, []) := by decide
theorem test_decode_sclVmap : decode [0x31000013#32] = .ok (.sclVmap 19#16, []) := by decide
theorem test_decode_sclGeom : decode [0x324F00AA#32] = .ok (.sclGeom 1#2 15#4 170#16, []) := by decide
theorem test_decode_sclBand : decode [0x33040000#32] = .ok (.sclBand 4#8, []) := by decide
theorem test_decode_poolAcquire : decode [0x40000000#32] = .ok (.poolAcquire, []) := by decide
theorem test_decode_poolFill : decode [0x41040000#32] = .ok (.poolFill 4#8, []) := by decide
theorem test_decode_poolCommit : decode [0x42010000#32] = .ok (.poolCommit 1#8, []) := by decide
theorem test_decode_poolAbort : decode [0x43010000#32] = .ok (.poolAbort 1#8, []) := by decide
theorem test_decode_poolSelect : decode [0x44000000#32] = .ok (.poolSelect, []) := by decide
theorem test_decode_poolRelease : decode [0x45020000#32] = .ok (.poolRelease 2#8, []) := by decide
theorem test_decode_xfaWait : decode [0x50000000#32] = .ok (.xfaWait, []) := by decide
theorem test_decode_xfaPush : decode [0x510C0014#32] = .ok (.xfaPush 12#8 20#16, []) := by decide
theorem test_decode_xfaDrain : decode [0x52020000#32] = .ok (.xfaDrain 2#8, []) := by decide
theorem test_decode_csrRead : decode [0x60000404#32] = .ok (.csrRead 0x404#12, []) := by decide
theorem test_decode_seqIngest : decode [0x70000000#32] = .ok (.seqIngest, []) := by decide
theorem test_decode_seqConsume : decode [0x71000000#32] = .ok (.seqConsume, []) := by decide
theorem test_decode_must_be_zero : decode [0x60001000#32] = .error (.mustBeZero 0x60#8) := by decide
theorem test_decode_second_word_must_be_zero :
    decode [0x10040000#32, 0x00010000#32] = .error (.mustBeZero 0x10#8) := by decide
theorem test_decode_reserved : decode [0x14000000#32] = .error (.reservedOpcode 0x14#8) := by decide
theorem test_decode_missing_word : decode [0x10040000#32] = .error .missingWord := by decide
theorem test_decodeTableWord : decodeTableWord 64 0x00001234105100EF =
    some (.hdrDecode 0x12#8 0x34#8 0x00#8 0xEF#8 0x51#8) := by decide
theorem test_withFetchWord :
    stepField (·.result.producer) (State.reset.withFetchWord 32 0x40000000) = some (some (.status ⟨.ok, .slot 0⟩)) := by
  decide

/-! ## The numbers a result carries: the tables of 30_encoding R85 -/

theorem test_status_numbers :
    ([.ok, .empty, .exhausted, .malformed, .short, .overflow, .nodraw, .halted] : List Code).map Code.code =
      [0x00#8, 0x01#8, 0x02#8, 0x03#8, 0x04#8, 0x05#8, 0x06#8, 0x07#8] := by decide
theorem test_subcause_numbers :
    ([.hdrShort, .lcZero, .lcOver, .resRsv, .cmodeRsv] : List Subcause).map Subcause.code =
      [1#8, 2#8, 3#8, 4#8, 5#8] := by decide

/-! ## One step of each command -/

theorem test_hdrDecode : answer (.hdrDecode 0x12#8 0x34#8 0x00#8 0xEF#8 0x51#8) base = some (.status ⟨.ok, .header
    { frameId := 4660#16, yStart := 239#16, resolution := 1#2, colorMode := 1#2, lineCount := 1#4, sourceWidth := .w180,
      bytesPerPixel := 1, isFullDepth := false, expected := 180 }⟩) := by decide
theorem test_hdrDecode_order :
    answer (.hdrDecode 0#8 0#8 0#8 0#8 0xF4#8) State.reset = some (.status ⟨.malformed, .cause .resRsv⟩) := by decide
theorem test_hdrEncode : answer (.hdrEncode 65535#16 65535#16 3#2 3#2 0#4) base =
    some (.status ⟨.ok, .bytes [0xFF#8, 0xFF#8, 0xFF#8, 0xFF#8, 0xF0#8]⟩) := by decide
theorem test_hdrCheckLen_short :
    answer (.hdrCheckLen 0x05#8 1000#16) State.reset = some (.status ⟨.short, .lacks 2400 1000⟩) := by decide
theorem test_hdrCheckLen_surplus :
    answer (.hdrCheckLen 0x0F#8 65535#16) State.reset = some (.status ⟨.ok, .fits 7200 58335⟩) := by decide
theorem test_rxPoll : field (fun t => (t.rxd, t.rxq)) .rxPoll { onPort .producer base with rxq := [[], [1#8]] } =
    some (some [], [[1#8]]) := by decide
theorem test_rxPoll_host : answer .rxPoll base = some (.fault .wrongAgent) := by decide
theorem test_pxcExpand : answer (.pxcExpand 0x78#8) base = some (.status ⟨.ok, .pixel 0x6EC0#16⟩) := by decide
theorem test_pxcLookup : answer (.pxcLookup 0xCF#8) base = some (.status ⟨.ok, .pixel 0xDB7F#16⟩) := by decide
theorem test_pxcLookup_halted : answer (.pxcLookup 0#8) dead = some (.status ⟨.halted, .none⟩) := by decide
theorem test_sclHmap : answer (.sclHmap 237#16) base = some (.status ⟨.ok, .index 178#8⟩) := by decide
theorem test_sclHmap_240 : answer (.sclHmap 240#16) base = some (.fault .badOperand) := by decide
theorem test_sclVmap : answer (.sclVmap 7#16) base = some (.status ⟨.ok, .index 5#8⟩) := by decide
theorem test_sclGeom_clipped : answer (.sclGeom 1#2 15#4 170#16) State.reset = some (.status ⟨.ok, .geom
    { verdict := .ok, dstY0 := 227, dstLineCount := 20, y := 227, h := 13 }⟩) := by decide +kernel
theorem test_sclGeom_truncated : answer (.sclGeom 2#2 15#4 112#16) State.reset = some (.status ⟨.ok, .geom
    { verdict := .ok, dstY0 := 224, dstLineCount := 16, y := 224, h := 16 }⟩) := by decide
theorem test_sclBand_noSlot : answer (.sclBand 0#8) (onPort .consumer base) = some (.fault .badState) := by decide
/-- "slot 0 D, `W 180, lc 12, y0 0`, `OUT_ROWS = 15`": OVERFLOW. -/
theorem test_sclBand_overflow : field (fun t => (t.lastResult, t.cntOverflow, t.clatch, t.obufRows)) (.sclBand 0#8)
    { holding .w180 12#8 false with cfg := { Config.test with outRows := 15 } } =
    some (some (.status ⟨.overflow, .tooTall 0 16⟩), 1#32, some { verdict := .overflow, y := 0#8, h := 0#8 },
      { buf0 := 0#8, buf1 := 0#8 }) := by decide
theorem test_poolAcquire : field (fun t => (t.ph, statusWord t)) .poolAcquire
    { onPort .producer base with slots := [bandSlot .ready .w120 1#8 false, .reset] } =
    some (some 1, 0x00000108#32) := by decide
theorem test_poolAcquire_exhausted : field (fun t => (t.lastResult, t.cntDrop)) .poolAcquire
    { onPort .producer base with
      slots := [bandSlot .ready .w120 1#8 false, bandSlot .displaying .w120 1#8 false], ch := some 1 } =
    some (some (.status ⟨.exhausted, .none⟩), 1#32) := by decide
theorem test_poolFill : answer (.poolFill 0#8) (filling false (some (datagram ++ [5#8]))) =
    some (.status ⟨.ok, .fits 120 1⟩) := by decide +kernel
theorem test_poolFill_short : field (fun t => (t.lastResult, t.cntShort, t.slotState 0)) (.poolFill 0#8)
    (filling false (some [0#8, 1#8, 0#8, 0#8, 0x91#8, 7#8])) =
    some (some (.status ⟨.short, .lacks 120 1⟩), 1#32, some .filling) := by decide
theorem test_poolCommit : field (fun t => (t.slotState 0, t.ph)) (.poolCommit 0#8) (filling true none) =
    some (some .ready, none) := by decide
theorem test_poolCommit_notFilled : answer (.poolCommit 0#8) (filling false none) = some (.fault .badState) := by decide
theorem test_poolAbort : field (fun t => (t.slotState 0, t.ph)) (.poolAbort 0#8) (filling true none) =
    some (some .free, none) := by decide
theorem test_poolSelect : answer .poolSelect { onPort .consumer base with slots :=
    [{ bandSlot .ready .w120 1#8 false with info := some { bandInfo .w120 1#8 false with frameId := 5#16 } },
     { bandSlot .ready .w120 1#8 false with
       info := some { bandInfo .w120 1#8 false with frameId := 4#16, srcY0 := 1#16 } }] } =
    some (.status ⟨.ok, .band 1 4#16 1#16⟩) := by decide
theorem test_poolSelect_empty : answer .poolSelect (onPort .consumer base) = some (.status ⟨.empty, .none⟩) := by decide
theorem test_poolRelease : field (fun t => (t.slotState 0, t.ch)) (.poolRelease 0#8) (holding .w120 1#8 false) =
    some (some .free, none) := by decide
theorem test_xfaWait : answer .xfaWait (onPort .consumer base) = some (.status ⟨.ok, .none⟩) := by decide
theorem test_xfaWait_holds : field (·.port.consumer.cmd) .xfaWait { onPort .consumer base with xfBusy := true } =
    some (some .xfaWait) := by decide
theorem test_xfaPush : field (fun t => (t.abi, xfDescWord t.xfDesc)) (.xfaPush 12#8 20#16)
    { onPort .consumer State.reset with obufRows := { buf0 := 0#8, buf1 := 12#8 } } =
    some (true, 0x00010C14#32) := by decide
theorem test_xfaPush_busy : answer (.xfaPush 0#8 250#16) { onPort .consumer base with xfBusy := true } =
    some (.fault .xferBusy) := by decide
theorem test_xfaDrain_noSlot : answer (.xfaDrain 0#8) (onPort .consumer base) = some (.fault .badState) := by decide
theorem test_csrRead_status : answer (.csrRead 0x020#12) { base with bstate := .halted, xfBusy := true, abi := true } =
    some (.status ⟨.ok, .value 7#32⟩) := by decide
theorem test_csrRead_unmapped : answer (.csrRead 0x01C#12) base = some (.fault .badCsr) := by decide
theorem test_seqIngest_malformed : field (fun t => (t.cntMalformed, t.rxd, t.slotState 0)) .seqIngest
    { onPort .producer base with
      port := base.port.set .producer { cmd := some .seqIngest, step := 2, sub := none }, rxd := some [0#8, 1#8, 2#8] } =
    some (1#32, none, some .free) := by decide
theorem test_seqIngest_empty : answer .seqIngest (onPort .producer base) = some (.status ⟨.empty, .none⟩) := by decide
theorem test_seqConsume_empty : answer .seqConsume (onPort .consumer base) = some (.status ⟨.empty, .none⟩) := by decide
/-- The last micro-step of a drain (44_transfer R140) with the geometry of Scenario B. -/
theorem test_xfaDrain_push : field (fun t => (t.lastResult, t.xfDesc, t.abi, t.xfBusy)) (.xfaDrain 2#8)
    { onPort .consumer State.reset with
      port := base.port.set .consumer { cmd := some (.xfaDrain 2#8), step := 5, sub := none }
      clatch := some { verdict := .ok, y := 20#8, h := 12#8 }, obufRows := { buf0 := 0#8, buf1 := 12#8 } } =
    some (some (.status ⟨.ok, .drawn 2 20#8 12#8⟩), { y := 20#8, h := 12#8, buf := true }, true, true) := by decide
/-- Micro-step 4 of SEQ_CONSUME releases the slot and keeps what step 5 reports (45_sequences R147). -/
theorem test_seqConsume_release : field (fun t => (t.slotState 0, t.ch, t.port.consumer.step, t.port.consumer.sub)) .seqConsume
    { holding .w120 1#8 false with
      port := base.port.set .consumer { cmd := some .seqConsume, step := 4, sub := some ⟨.ok, .band 0 7#16 0#16⟩ } } =
    some (some .free, none, 5, some ⟨.ok, .band 0 7#16 0#16⟩) := by decide

/-! ## Witnesses: encoding and the step -/

theorem test_witness_EncodeOfDecode : decode [0x510C0014#32, 1#32] = .ok (.xfaPush 12#8 20#16, [1#32]) := by decide
theorem test_witness_ReservedOpcodesRejected : ∀ w0 ∈ [0x0F000000#32, 0x14000000#32, 0x72000000#32],
    w0.extractLsb' 24 8 ∉ [0x10#8, 0x11#8, 0x12#8, 0x13#8, 0x20#8, 0x21#8, 0x30#8, 0x31#8, 0x32#8, 0x33#8, 0x40#8, 0x41#8,
      0x42#8, 0x43#8, 0x44#8, 0x45#8, 0x50#8, 0x51#8, 0x52#8, 0x60#8, 0x70#8, 0x71#8] := by
  simp

/-- The HOST has words delivered and moves next. -/
def delivered (ws : List Word) (s : State) : State := { s with turns := [.port .host], cmdq := s.cmdq.set .host ws }

theorem test_witness_IllegalCommandFaults :
    let s := delivered [0x10040000#32, 0x00010000#32] base
    s.cfg.wellFormed = true ∧ s.bstate = .run ∧ s.turns = .port .host :: [] ∧ s.port.get .host = .idle ∧
    s.cmdq.get .host = 0x10040000#32 :: [0x00010000#32] ∧ commandLength 0x10040000#32 ≤ [0x00010000#32].length + 1 ∧
    decode (0x10040000#32 :: [0x00010000#32]) = .error (.mustBeZero 0x10#8) := by decide
theorem test_witness_StepRunsDecodedCommand :
    let s := delivered [0x10040000#32, 0x00000001#32, 0x50000000#32] base
    s.cfg.wellFormed = true ∧ s.turns = .port .host :: [] ∧ s.port.get .host = .idle ∧
    decode (s.cmdq.get .host) = .ok (.hdrDecode 0#8 1#8 0#8 0#8 4#8, [0x50000000#32]) := by decide

/-- The CONSUMER is at a micro-step of a command and moves next. -/
def atStep (i : Instr) (k : Nat) (s : State) : State :=
  { s with turns := [.port .consumer], port := s.port.set .consumer { cmd := some i, step := k, sub := none } }

theorem test_witness_StepResumesCommand :
    let s := atStep (.xfaDrain 0#8) 2 (holding .w120 1#8 false)
    s.cfg.wellFormed = true ∧ s.turns = .port .consumer :: [] ∧ (s.port.get .consumer).cmd = some (.xfaDrain 0#8) := by
  decide
theorem test_witness_IllFormedConfigurationRefused : small.wellFormed = true ∧
    ∃ h, decodeHeader small.maxLines 0#8 0#8 0#8 0#8 0x02#8 = .ok h ∧ h.expected = small.slotBytes.toNat :=
  ⟨by decide, _, rfl, rfl⟩
theorem test_witness_EnvironmentTurns :
    (let s := { atTurn [.transport] base with air := [[1#8]] }
     s.cfg.wellFormed = true ∧ s.turns = .transport :: [] ∧ s.air = [1#8] :: []) ∧
    (let s := atTurn [.reset false] base
     s.cfg.wellFormed = true ∧ s.turns = .reset false :: []) ∧
    base.cfg.wellFormed = true ∧ base.turns = [] := by decide

/-! ## Witnesses: the preamble, halting and faults -/

theorem test_witness_HaltedBlockTurnsCommandsAway :
    (dead.bstate = .halted ∧ ∀ a, Instr.rxPoll ≠ .csrRead a) ∧
    (∀ ws ∈ [[0x14000000#32], [0x60001000#32]],
      let s := delivered ws dead
      s.cfg.wellFormed = true ∧ s.bstate = .halted ∧ s.turns = .port .host :: [] ∧ s.port.get .host = .idle ∧
      s.cmdq.get .host = ws ∧ s.faultCause ≠ 0#8) ∧
    commandLength 0x14000000#32 ≤ ([] : List Word).length + 1 ∧ commandLength 0x60001000#32 ≤ ([] : List Word).length + 1 ∧
    (0x14000000#32).extractLsb' 24 8 ≠ 0x60#8 ∧ (0x60001000#32).extractLsb' 24 8 = 0x60#8 ∧
    decode [0x60001000#32] = .error (.mustBeZero 0x60#8) :=
  ⟨⟨by decide, fun _ h => nomatch h⟩, by decide, by decide, by decide, by decide, by decide, by decide⟩
/-- 95_test_vectors 3.7 and P5 step 4: a halted block turns a reserved opcode away and faults an ill-formed CSR_READ. -/
theorem test_halted_words :
    ((match step (delivered [0x14000000#32] dead) with
      | .next t => t.lastResult | _ => none) = some (.status ⟨.halted, .none⟩)) ∧
    ((match step (delivered [0x60001000#32] dead) with
      | .next t => t.lastResult | _ => none) = some (.fault .illegalCmd)) ∧
    (match step (delivered [0x60001000#32] dead) with | .next t => t.faultCause | _ => 0#8) = 0x89#8 := by decide
theorem test_witness_UnlistedPortFaults : base.bstate = .run ∧ base.portState = .idle ∧
    ((Instr.rxPoll.opcode ∈ [0x13#8, 0x40#8, 0x41#8, 0x42#8, 0x43#8, 0x70#8] ∧ base.issuer ≠ .producer) ∨
      (Instr.rxPoll.opcode ∈ [0x33#8, 0x44#8, 0x45#8, 0x50#8, 0x51#8, 0x52#8, 0x71#8] ∧ base.issuer ≠ .consumer)) := by
  decide
theorem test_witness_SlotOutOfRangeFaults : ∀ p ∈ [Port.consumer, Port.producer],
    (onPort p base).bstate = .run ∧ (onPort p base).portState = .idle ∧
    (onPort p base).cfg.slotCount ≤ (2#8 : BitVec 8).toNat ∧ (onPort p base).issuer = p := by decide
theorem test_witness_FaultEntryIsPrecise : ∃ t, exec .rxPoll base = .next t ∧
    base.lastResult ≠ some (.fault .wrongAgent) ∧ t.lastResult = some (.fault .wrongAgent) :=
  ⟨_, rfl, by decide, by decide⟩
theorem test_witness_HaltIsKept : ∃ t, step (delivered [0x6000001C#32] dead) = .next t ∧
    (∀ ok turns, (delivered [0x6000001C#32] dead).turns ≠ .reset ok :: turns) ∧
    (delivered [0x6000001C#32] dead).bstate = .halted ∧ (delivered [0x6000001C#32] dead).faultCause ≠ 0#8 :=
  ⟨_, rfl, by simp [delivered], by decide, by decide⟩

/-! ## Witnesses: HDR, PXC and SCL -/

theorem test_witness_HdrDecodeAnswers : base.bstate = .run := rfl
theorem test_witness_HdrEncodeAnswers : base.bstate = .run := rfl
theorem test_witness_HeaderRoundTrip :
    ((2#2 : BitVec 2).toNat ≤ 2 ∧ (1#2 : BitVec 2).toNat ≤ 1 ∧ 1 ≤ (15#4 : BitVec 4).toNat ∧ (15#4 : BitVec 4).toNat ≤ 15) ∧
    ∃ h, headerOf 15 [0x12#8, 0x34#8, 0x00#8, 0xEF#8, 0x51#8] = .ok h := ⟨by decide, _, rfl⟩
theorem test_witness_HdrCheckLenAnswers : base.bstate = .run := rfl
theorem test_witness_RxPollAnswers :
    (let s := onPort .producer base
     s.bstate = .run ∧ s.issuer = .producer ∧ s.rxq = []) ∧
    (let s := { onPort .producer base with rxq := [[], [1#8]] }
     s.bstate = .run ∧ s.issuer = .producer ∧ s.rxq = [] :: [[1#8]]) := by decide
theorem test_witness_PxcExpandAnswers : base.bstate = .run ∧ base.cfg.expand = .replicate := by decide
theorem test_witness_PxcLookupAnswers : base.bstate = .run ∧ base.lut = builtLut base.cfg := ⟨rfl, rfl⟩
theorem test_witness_MapCommandsAnswer : base.bstate = .run ∧ (239#16 : Half).toNat < 240 ∧ 240 ≤ (240#16 : Half).toNat ∧
    base.hmap = builtMap ∧ base.vmap = builtMap := ⟨rfl, by decide, by decide, rfl, rfl⟩
/-- One set of operands for each clause; the last two have a band that fits the buffer and one that does not. -/
theorem test_witness_SclGeomAnswers : base.bstate = .run ∧ (0#4 : BitVec 4).toNat = 0 ∧
    base.cfg.maxLines < (3#4 : BitVec 4).toNat ∧
    (1 ≤ (2#4 : BitVec 4).toNat ∧ (2#4 : BitVec 4).toNat ≤ base.cfg.maxLines) ∧ (3#2 : BitVec 2).toNat = 3 ∧
    (0#2 : BitVec 2).toNat = 0 ∧ (1#2 : BitVec 2).toNat = 1 ∧ (2#2 : BitVec 2).toNat = 2 ∧
    (geom base.cfg.outRows .w120 119 2).dstLineCount ≤ base.cfg.outRows ∧
    ({ base.cfg with outRows := 2 } : Config).outRows < (geom 2 .w180 0 2).dstLineCount := by decide
theorem test_witness_GeometryStaysOnTheRaster : (geom 4 .w120 119 1).verdict = .ok ∧ (15 : Nat) ≤ 15 := by decide

/-- For every width and depth, a band of two lines that is drawn. -/
theorem test_witness_SclBandDraws : ∀ w ∈ [SrcWidth.w240, .w180, .w120], ∀ full ∈ [true, false],
    let s := holding w 2#8 full
    s.bstate = .run ∧ s.issuer = .consumer ∧ (0#8 : BitVec 8).toNat < s.cfg.slotCount ∧ s.cfg.wellFormed = true ∧
    s.ch = some (0#8 : BitVec 8).toNat ∧ s.slots[(0#8 : BitVec 8).toNat]? = some (bandSlot .displaying w 2#8 full) ∧
    (bandSlot .displaying w 2#8 full).state = .displaying ∧
    (bandSlot .displaying w 2#8 full).info = some (bandInfo w 2#8 full) ∧
    HoldsBand s.cfg (bandSlot .displaying w 2#8 full) ∧ s.lut = builtLut s.cfg ∧ s.hmap = builtMap ∧ s.vmap = builtMap ∧
    (slotGeom s.cfg (bandInfo w 2#8 full)).verdict ≠ .overflow ∧ 1 < (slotGeom s.cfg (bandInfo w 2#8 full)).h :=
  fun w _ full _ => ⟨rfl, rfl, Nat.zero_lt_two, rfl, rfl, rfl, rfl, rfl,
    holdsBand_bandSlot (by decide) (show (2#8 : BitVec 8).toNat ≤ small.maxLines by decide), rfl, rfl, rfl,
    by cases w <;> cases full <;> decide, by cases w <;> cases full <;> decide⟩
theorem test_witness_SclBandRejects :
    (let s : State := { holding .w180 2#8 false with cfg := { small with outRows := 2 } }
     s.bstate = .run ∧ s.issuer = .consumer ∧ (0#8 : BitVec 8).toNat < s.cfg.slotCount ∧
     s.ch = some (0#8 : BitVec 8).toNat ∧ s.slots[(0#8 : BitVec 8).toNat]? = some (bandSlot .displaying .w180 2#8 false) ∧
     (slotGeom s.cfg (bandInfo .w180 2#8 false)).verdict = .overflow) ∧
    (let s := holding .w180 2#8 false
     s.bstate = .run ∧ s.issuer = .consumer ∧ (1#8 : BitVec 8).toNat < s.cfg.slotCount ∧
     s.ch ≠ some (1#8 : BitVec 8).toNat ∧ s.slotState (1#8 : BitVec 8).toNat ≠ some .displaying) :=
  ⟨⟨rfl, rfl, by decide, rfl, rfl, by decide⟩, rfl, rfl, by decide, by decide, by decide⟩
theorem test_witness_IdentityBandCopiesThePayload :
    let s := holding .w240 2#8 true
    s.bstate = .run ∧ s.issuer = .consumer ∧ (0#8 : BitVec 8).toNat < s.cfg.slotCount ∧ s.cfg.wellFormed = true ∧
    s.ch = some (0#8 : BitVec 8).toNat ∧ s.slots[(0#8 : BitVec 8).toNat]? = some (bandSlot .displaying .w240 2#8 true) ∧
    (bandSlot .displaying .w240 2#8 true).state = .displaying ∧
    (bandSlot .displaying .w240 2#8 true).info = some (bandInfo .w240 2#8 true) ∧
    HoldsBand s.cfg (bandSlot .displaying .w240 2#8 true) ∧ (bandInfo .w240 2#8 true).srcWidth = .w240 ∧
    (bandInfo .w240 2#8 true).isFullDepth = true ∧
    (bandInfo .w240 2#8 true).srcY0.toNat + (bandInfo .w240 2#8 true).srcLineCount.toNat ≤ 240 :=
  ⟨rfl, rfl, by decide, rfl, rfl, rfl, rfl, rfl, holdsBand_bandSlot (by decide) (by decide), rfl, rfl, by decide⟩
theorem test_witness_ScaledBandsCopySourcePixels : 1 ≤ (bandInfo .w120 1#8 false).srcLineCount.toNat ∧
    base.hmap = builtMap ∧ base.vmap = builtMap ∧ (bandInfo .w120 1#8 false).srcWidth = .w120 ∧
    (bandInfo .w180 1#8 false).srcWidth = .w180 := ⟨by decide, rfl, rfl, rfl, rfl⟩

/-! ## Witnesses: the pool -/

/-- One slot `Ready`, the other in a given state. -/
def pool (st : SlotState) : List Slot := [bandSlot .ready .w120 1#8 false, bandSlot st .w120 1#8 false]

theorem test_witness_PoolAcquireAnswers :
    (let s := { onPort .producer base with slots := pool .free }
     s.bstate = .run ∧ s.issuer = .producer ∧ s.ph = none ∧ s.slotState 1 = some .free ∧
     ∀ j < 1, s.slotState j ≠ some .free) ∧
    (let s := { onPort .producer base with slots := pool .ready }
     s.bstate = .run ∧ s.issuer = .producer ∧ s.ph = none ∧ ∀ k, s.slotState k ≠ some .free) ∧
    (filling false none).bstate = .run ∧ (filling false none).issuer = .producer ∧ (filling false none).ph ≠ none := by
  refine ⟨by decide, ⟨rfl, rfl, rfl, fun k => ?_⟩, by decide, by decide, by decide⟩
  match k with
  | 0 => decide
  | 1 => decide
  | k + 2 => simp [State.slotState, pool]

/-- The three answers, each with its datagram: too short for a header, one payload byte missing, whole. -/
theorem test_witness_PoolFillAnswers : (0#8 : BitVec 8).toNat < small.slotCount ∧
    (∀ d, let s := filling false (some d)
      s.bstate = .run ∧ s.issuer = .producer ∧ s.ph = some (0#8 : BitVec 8).toNat ∧
      s.slots[(0#8 : BitVec 8).toNat]? = some { Slot.reset with state := .filling, filled := false } ∧ s.rxd = some d) ∧
    headerOf small.maxLines [0#8, 1#8, 2#8, 3#8] = .error .hdrShort ∧
    headerOf small.maxLines datagram = .ok header ∧ header.expected ≤ datagram.length - 5 ∧
    header.expected ≤ small.slotBytes.toNat ∧
    headerOf small.maxLines (datagram.take 124) = .ok header ∧ (datagram.take 124).length - 5 < header.expected ∧
    (filling true none).ph = some 0 ∧ base.ph ≠ some (0#8 : BitVec 8).toNat ∧
    (∃ sl, (filling true none).slots[(0#8 : BitVec 8).toNat]? = some sl ∧ sl.filled = true) ∧
    (filling false none).rxd = none ∧ (onPort .producer base).slotState (0#8 : BitVec 8).toNat ≠ some .filling :=
  ⟨by decide, fun _ => ⟨rfl, rfl, rfl, rfl, rfl⟩, rfl, rfl, by decide +kernel, by decide +kernel, rfl, by decide +kernel, rfl, by decide,
    ⟨_, rfl, rfl⟩, rfl, by decide⟩
theorem test_witness_PoolCommitAnswers :
    (let s := filling true none
     s.bstate = .run ∧ s.issuer = .producer ∧ (0#8 : BitVec 8).toNat < s.cfg.slotCount ∧
     s.ph = some (0#8 : BitVec 8).toNat ∧
     s.slots[(0#8 : BitVec 8).toNat]? = some { Slot.reset with state := .filling, filled := true }) ∧
    (∃ sl, (filling false none).slots[(0#8 : BitVec 8).toNat]? = some sl ∧ sl.filled = false) ∧
    (filling true none).ph ≠ some (1#8 : BitVec 8).toNat ∧
    (filling true none).slotState (1#8 : BitVec 8).toNat ≠ some .filling :=
  ⟨by decide, ⟨_, rfl, rfl⟩, by decide, by decide⟩
theorem test_witness_AbortAndReleaseFreeTheSlot :
    (let s := filling true none
     s.bstate = .run ∧ (0#8 : BitVec 8).toNat < s.cfg.slotCount ∧ s.issuer = .producer ∧
     s.ph = some (0#8 : BitVec 8).toNat ∧
     s.slots[(0#8 : BitVec 8).toNat]? = some { Slot.reset with state := .filling, filled := true } ∧
     s.ph ≠ some (1#8 : BitVec 8).toNat) ∧
    (let s := holding .w120 1#8 false
     s.bstate = .run ∧ (0#8 : BitVec 8).toNat < s.cfg.slotCount ∧ s.issuer = .consumer ∧
     s.ch = some (0#8 : BitVec 8).toNat ∧
     s.slots[(0#8 : BitVec 8).toNat]? = some (bandSlot .displaying .w120 1#8 false) ∧
     s.slotState (1#8 : BitVec 8).toNat ≠ some .displaying) :=
  ⟨by decide, rfl, by decide, rfl, rfl, rfl, by decide⟩
/-- A tie, and a pool with no `Ready` slot. -/
theorem test_witness_SelectionIsLeastKey : (∀ sl ∈ pool .ready, sl.state = .ready → sl.info.isSome) ∧
    selectSlot small (pool .ready) = some (some 0) ∧
    selectSlot { small with policy := .firstReady } (pool .ready) = some (some 0) ∧
    (∀ sl ∈ (pool .ready).drop 2, sl.state ≠ .ready) ∧ selectSlot small [] = some none := by
  refine ⟨fun sl h _ => ?_, by decide, by decide, by decide, by decide⟩
  simp only [pool, List.mem_cons, List.not_mem_nil, or_false, or_self] at h
  subst h; rfl
theorem test_witness_PoolSelectAnswers :
    (let s := { onPort .consumer base with slots := pool .filling }
     s.bstate = .run ∧ s.issuer = .consumer ∧ s.ch = none ∧ selectSlot s.cfg s.slots = some (some 0) ∧
     s.slots[0]? = some (bandSlot .ready .w120 1#8 false) ∧
     (bandSlot .ready .w120 1#8 false).info = some (bandInfo .w120 1#8 false)) ∧
    (let s := { onPort .consumer base with slots := [] }
     s.ch = none ∧ ∀ k, s.slotState k ≠ some .ready) ∧ (holding .w120 1#8 false).ch ≠ none := by
  refine ⟨⟨rfl, rfl, rfl, by decide, rfl, rfl⟩, ⟨rfl, fun k => ?_⟩, by decide⟩
  simp [State.slotState]

/-! ## Witnesses: transfer -/

/-- Twelve rows of the inactive buffer are written; nothing in flight. -/
def drawn : State := { onPort .consumer State.reset with obufRows := { buf0 := 0#8, buf1 := 12#8 } }

/-- Rectangles at the edge of the raster, and for each clause of the refusal one that it alone turns away. -/
theorem test_witness_XfaPushAnswers : drawn.bstate = .run ∧ drawn.issuer = .consumer ∧ drawn.xfBusy = false ∧
    (∀ yh ∈ [((239#16 : Half), (1#8 : BitVec 8)), (228#16, 12#8), (0#16, 12#8)],
      yh.1.toNat ≤ 239 ∧ 1 ≤ yh.2.toNat ∧ yh.1.toNat + yh.2.toNat ≤ 240 ∧ yh.2.toNat ≤ drawn.cfg.outRows ∧
      yh.2.toNat ≤ (drawn.obufRows.get (!drawn.abi)).toNat) ∧
    239 < (240#16 : Half).toNat ∧ (0#8 : BitVec 8).toNat = 0 ∧ 240 < (229#16 : Half).toNat + (12#8 : BitVec 8).toNat ∧
    drawn.cfg.outRows < (31#8 : BitVec 8).toNat ∧
    (drawn.obufRows.get (!drawn.abi)).toNat < (13#8 : BitVec 8).toNat ∧
    { drawn with xfBusy := true }.xfBusy = true :=
  ⟨rfl, rfl, rfl, by simp [drawn, onPort, State.reset, State.resetWith, Config.test, PerBuf.get], by decide, by decide,
    by decide, by decide, by decide, rfl⟩
theorem test_witness_XfaWaitAnswers : ∀ busy ∈ [false, true],
    { drawn with xfBusy := busy }.bstate = .run ∧ { drawn with xfBusy := busy }.issuer = .consumer ∧
    { drawn with xfBusy := busy }.xfBusy = busy := by decide

/-- A transfer of one row is in flight, slot 0 is `Displaying`, and the CONSUMER's port is as given. -/
def inFlight (ps : PortState) (turns : List Turn) : State :=
  { holding .w120 1#8 false with
    turns := turns, port := base.port.set .consumer ps, xfBusy := true, xfDesc := { y := 239#8, h := 1#8, buf := false }
    obuf := { buf0 := Sparse.cells 0 (List.replicate 480 0#8), buf1 := [] }, obufRows := { buf0 := 1#8, buf1 := 0#8 } }

theorem inFlight_defined (ps : PortState) (turns : List Turn) {k : Nat} (h : k < 480) :
    (Sparse.read ((inFlight ps turns).obuf.get false) k).isSome := by
  show (Sparse.read (Sparse.cells 0 (List.replicate 480 0#8)) k).isSome
  simp [Sparse.read_cells, h, -List.reduceReplicate]

theorem inFlight_slots (ps : PortState) (turns : List Turn) :
    (inFlight ps turns).slots = [bandSlot .displaying .w120 1#8 false, .reset] := rfl

/-- It is a sound state when the CONSUMER's port is. -/
theorem sound_inFlight {ps : PortState} {turns : List Turn} (h : ConsumerOk (inFlight ps turns)) :
    Sound (inFlight ps turns) where
  config := by show small.wellFormed = true; decide
  faultRecord := ⟨.inl rfl, ⟨fun h => BState.noConfusion (show BState.run = .halted from h), fun h => absurd rfl h⟩⟩
  spaces := by
    refine ⟨fun sl hs => ?_, fun b => ?_, List.Pairwise.nil, fun kv h => by cases h⟩
    · have hs : sl = bandSlot .displaying .w120 1#8 false ∨ sl = .reset := by
        simpa [inFlight_slots] using hs
      rcases hs with rfl | rfl
      · refine ⟨Sparse.wf_cells _ _, fun kv hkv => ?_⟩
        have h1 := (Sparse.mem_cells hkv).2
        simp only [List.length_replicate] at h1
        have h2 : payloadBytes .w120 (1#8 : BitVec 8).toNat false = 120 := by decide
        have h3 : (inFlight ps turns).cfg.slotBytes.toNat = 960 := rfl
        omega
      · exact ⟨List.Pairwise.nil, fun kv h => by cases h⟩
    · cases b
      · refine ⟨Sparse.wf_cells _ _, fun kv hkv => ?_⟩
        have h1 := (Sparse.mem_cells hkv).2
        simp only [List.length_replicate] at h1
        have h2 : (inFlight ps turns).cfg.outRows = 4 := rfl
        omega
      · exact ⟨List.Pairwise.nil, fun kv h => by cases h⟩
  holders := by
    refine ⟨rfl, fun i => ?_, fun i => ?_⟩
    all_goals
      have hp : (inFlight ps turns).ph = none := rfl
      have hc : (inFlight ps turns).ch = some 0 := rfl
      have h0 : (bandSlot .displaying .w120 1#8 false).state = .displaying := rfl
      have h1 : Slot.reset.state = .free := rfl
      match i with
      | 0 => simp [State.slotState, inFlight_slots, hp, hc, h0]
      | 1 => simp [State.slotState, inFlight_slots, hp, hc, h1]
      | i + 2 => simp [State.slotState, inFlight_slots, hp, hc]
  bands := by
    intro sl hs hst
    have hs : sl = bandSlot .displaying .w120 1#8 false ∨ sl = .reset := by
        simpa [inFlight_slots] using hs
    rcases hs with rfl | rfl
    · exact holdsBand_bandSlot (by decide) (show (1#8 : BitVec 8).toNat ≤ small.maxLines by decide)
    · simp [Slot.reset] at hst
  transfer := by
    refine ⟨fun _ => ⟨rfl, show 1 ≤ (1#8 : BitVec 8).toNat by decide,
      show (1#8 : BitVec 8).toNat ≤ (1#8 : BitVec 8).toNat by decide,
      show (239#8 : BitVec 8).toNat + (1#8 : BitVec 8).toNat ≤ 240 by decide⟩, fun b => ?_⟩
    cases b
    · exact ⟨show (1#8 : BitVec 8).toNat ≤ 4 by decide, fun k hk => inFlight_defined ps turns hk⟩
    · exact ⟨show (0#8 : BitVec 8).toNat ≤ 4 by decide, fun k hk => absurd hk (Nat.not_lt_zero k)⟩
  tables := fun _ => ⟨rfl, rfl, rfl⟩
  producer := .inl rfl
  consumer := h
  host := rfl

/-- The CONSUMER holds in an XFA_WAIT. -/
def waiting : PortState := { cmd := some .xfaWait, step := 1, sub := none }
/-- The CONSUMER holds in micro-step 2 of an XFA_DRAIN. -/
def draining : PortState := { cmd := some (.xfaDrain 0#8), step := 2, sub := none }

theorem sound_waiting (turns : List Turn) : Sound (inFlight waiting turns) := sound_inFlight (.inr (.inl ⟨rfl, rfl⟩))
theorem sound_draining (turns : List Turn) : Sound (inFlight draining turns) :=
  sound_inFlight (.inr (.inr (.inl ⟨0#8, rfl, rfl⟩)))

theorem test_witness_RetireWritesThePanel :
    (let s := inFlight .idle [.engine]
     s.cfg.wellFormed = true ∧ s.turns = .engine :: [] ∧ s.xfBusy = true ∧ s.xfDesc.y.toNat + s.xfDesc.h.toNat ≤ 240 ∧
     (∀ k < 480 * s.xfDesc.h.toNat, (Sparse.read (s.obuf.get s.xfDesc.buf) k).isSome) ∧ 0 < s.xfDesc.h.toNat) ∧
    (atTurn [.engine] base).cfg.wellFormed = true ∧ (atTurn [.engine] base).turns = .engine :: [] ∧
    (atTurn [.engine] base).xfBusy = false :=
  ⟨⟨by decide, rfl, rfl, by decide, fun _ hk => inFlight_defined .idle [.engine] hk, by decide⟩, by decide, rfl, rfl⟩
theorem test_witness_WaitEndsAfterRetire :
    let s := inFlight waiting [.engine, .port .consumer]
    Sound s ∧ s.bstate = .run ∧ s.xfBusy = true ∧ s.turns = .engine :: .port .consumer :: [] ∧
    s.port.consumer.cmd = some .xfaWait := ⟨sound_waiting _, rfl, rfl, rfl, rfl⟩

/-- The hypotheses of `XfaDrainAnswers` and `DrainEqualsPrimitives`, for a band that is drawn. -/
theorem test_witness_XfaDrainAnswers : ∀ s ∈ [holding .w120 1#8 false, inFlight .idle []],
    s.bstate = .run ∧ s.issuer = .consumer ∧ s.portState = .idle ∧ (0#8 : BitVec 8).toNat < s.cfg.slotCount ∧
    s.cfg.wellFormed = true ∧ s.ch = some (0#8 : BitVec 8).toNat ∧
    s.slots[(0#8 : BitVec 8).toNat]? = some (bandSlot .displaying .w120 1#8 false) ∧
    (bandSlot .displaying .w120 1#8 false).state = .displaying ∧
    (bandSlot .displaying .w120 1#8 false).info = some (bandInfo .w120 1#8 false) ∧
    HoldsBand s.cfg (bandSlot .displaying .w120 1#8 false) ∧ s.lut = builtLut s.cfg ∧ s.hmap = builtMap ∧
    s.vmap = builtMap ∧ (slotGeom s.cfg (bandInfo .w120 1#8 false)).verdict = .ok := by
  intro s hs
  have hB : HoldsBand small (bandSlot .displaying .w120 1#8 false) := holdsBand_bandSlot (by decide) (by decide)
  simp only [List.mem_cons, List.not_mem_nil, or_false] at hs
  rcases hs with rfl | rfl
  · exact ⟨rfl, rfl, rfl, by decide, rfl, rfl, rfl, rfl, rfl, hB, rfl, rfl, rfl, by decide⟩
  · exact ⟨rfl, rfl, rfl, by decide, rfl, rfl, rfl, rfl, rfl, hB, rfl, rfl, rfl, by decide⟩
theorem test_witness_XfaDrainAnswers_busy : (holding .w120 1#8 false).xfBusy = false ∧ (inFlight .idle []).xfBusy = true :=
  ⟨rfl, rfl⟩
theorem test_witness_XfaDrainAnswers_notHeld :
    (onPort .consumer base).bstate = .run ∧ (onPort .consumer base).issuer = .consumer ∧
    (onPort .consumer base).portState = .idle ∧ (0#8 : BitVec 8).toNat < (onPort .consumer base).cfg.slotCount ∧
    (onPort .consumer base).ch ≠ some (0#8 : BitVec 8).toNat := by decide
/-- The first state of `test_witness_XfaDrainAnswers`, and one whose band is below the raster. -/
theorem test_witness_DrainEqualsPrimitives : (holding .w120 1#8 false).xfBusy = false ∧
    (slotGeom small (bandInfo .w120 1#8 false)).verdict = .ok ∧
    (slotGeom small { bandInfo .w120 1#8 false with srcY0 := 120#16 }).verdict ≠ .ok := by decide

/-! ## Witnesses: sequences and registers -/

/-- The PRODUCER with a queue and a pool. -/
def queued (q : List Datagram) (slots : List Slot) : State := { onPort .producer base with rxq := q, slots := slots }

theorem test_witness_SeqIngestOutcomes :
    (∀ q slots, (queued q slots).bstate = .run ∧ (queued q slots).issuer = .producer ∧
      (queued q slots).portState = .idle ∧ (queued q slots).ph = none ∧ (queued q slots).rxq = q) ∧
    (let s := { onPort .producer base with ph := some 0 }
     s.bstate = .run ∧ s.issuer = .producer ∧ s.portState = .idle ∧ s.ph ≠ none) ∧
    headerOf small.maxLines [0#8, 1#8, 2#8] = .error .hdrShort ∧ headerOf small.maxLines datagram = .ok header ∧
    (∀ k, (queued [datagram] []).slotState k ≠ some .free) ∧
    headerOf small.maxLines (datagram.take 124) = .ok header ∧ (datagram.take 124).length - 5 < header.expected ∧
    header.expected ≤ datagram.length - 5 ∧ header.expected ≤ small.slotBytes.toNat ∧
    (queued [datagram] (pool .free)).slots[1]? = some (bandSlot .free .w120 1#8 false) ∧
    (∀ j < 1, (queued [datagram] (pool .free)).slotState j ≠ some .free) :=
  ⟨fun _ _ => ⟨rfl, rfl, rfl, rfl, rfl⟩, by decide, rfl, rfl, fun k => by simp [queued, State.slotState], rfl, by decide +kernel,
    by decide +kernel, by decide +kernel, rfl, by decide⟩

theorem test_witness_SeqConsumeOutcomes :
    (let s := { onPort .consumer base with slots := pool .free }
     s.bstate = .run ∧ s.issuer = .consumer ∧ s.portState = .idle ∧ s.ch = none ∧ s.cfg.wellFormed = true ∧
     s.xfBusy = false ∧ s.lut = builtLut s.cfg ∧ s.hmap = builtMap ∧ s.vmap = builtMap ∧
     selectSlot s.cfg s.slots = some (some 0) ∧ s.slots[0]? = some (bandSlot .ready .w120 1#8 false) ∧
     (bandSlot .ready .w120 1#8 false).info = some (bandInfo .w120 1#8 false) ∧
     HoldsBand s.cfg (bandSlot .ready .w120 1#8 false) ∧ 0 < s.cfg.slotCount) ∧
    (∀ k, ({ onPort .consumer base with slots := [] } : State).slotState k ≠ some .ready) ∧
    (let s := { onPort .consumer base with ch := some 0 }
     s.bstate = .run ∧ s.issuer = .consumer ∧ s.portState = .idle ∧ s.ch ≠ none) ∧
    (let s := { inFlight .idle [] with slots := pool .free, ch := none }
     s.bstate = .run ∧ s.issuer = .consumer ∧ s.portState = .idle ∧ s.xfBusy = true ∧
     selectSlot s.cfg s.slots = some (some 0)) :=
  ⟨⟨rfl, rfl, rfl, rfl, rfl, rfl, rfl, rfl, rfl, by decide, rfl, rfl,
    holdsBand_bandSlot (by decide) (show (1#8 : BitVec 8).toNat ≤ small.maxLines by decide), by decide⟩,
    fun k => by simp [State.slotState], by decide, ⟨rfl, rfl, rfl, rfl, by decide⟩⟩

/-- The last slot's register, and an address for each clause of the fault. -/
theorem test_witness_CsrReadAnswers : (0x404#12 : BitVec 12).toNat = 0x400 + 4 * 1 ∧ 1 < base.cfg.slotCount ∧
    base.slotState 1 = some .free ∧ (0x403#12 : BitVec 12).toNat % 4 ≠ 0 ∧
    (0x040 ≤ (0x3FC#12 : BitVec 12).toNat ∧ (0x3FC#12 : BitVec 12).toNat < 0x400) ∧
    0x400 + 4 * base.cfg.slotCount ≤ (0x408#12 : BitVec 12).toNat := by decide
theorem test_witness_StatusWordBits : { base with ph := some 255 }.ph = some 255 ∧ 255 < 256 ∧ base.ph = none ∧
    { base with ch := some 255 }.ch = some 255 ∧ base.ch = none := by decide

/-! ## Witnesses: frames and invariants -/

theorem test_witness_PureCommandsChangeNothing :
    (Instr.sclHmap 240#16).opcode ∈ [0x10#8, 0x11#8, 0x12#8, 0x20#8, 0x21#8, 0x30#8, 0x31#8, 0x32#8, 0x60#8] ∧
    ∃ t, exec (.sclHmap 240#16) base = .next t := ⟨by decide, _, rfl⟩
theorem test_witness_HostChangesNothing : base.issuer = .host ∧ base.portState = .idle ∧
    ∃ t, exec .poolAcquire base = .next t := ⟨rfl, rfl, _, rfl⟩
/-- A command of each of the two ports that writes; the CONSUMER's is refused nothing by the first clause. -/
theorem test_witness_PortsWriteOnlyTheirOwn :
    (allowedOn .poolAcquire .producer = true ∧ ∃ t, exec .poolAcquire (onPort .producer base) = .next t ∧ t.ph = some 0) ∧
    (allowedOn (.poolRelease 0#8) .consumer = true ∧
      ∃ t, exec (.poolRelease 0#8) (holding .w120 1#8 false) = .next t ∧ t.ch = none) ∧ Port.producer ≠ base.issuer :=
  ⟨⟨rfl, _, rfl, rfl⟩, ⟨rfl, _, rfl, rfl⟩, by decide⟩
/-- Each of the five transitions is taken by its command. -/
theorem test_witness_SlotTransitionsAreTheFive :
    field (·.slotState 0) .poolAcquire (onPort .producer base) = some (some .filling) ∧
    field (·.slotState 0) (.poolCommit 0#8) (filling true none) = some (some .ready) ∧
    field (·.slotState 0) (.poolAbort 0#8) (filling true none) = some (some .free) ∧
    field (·.slotState 0) .poolSelect { onPort .consumer base with slots := pool .free } = some (some .displaying) ∧
    field (·.slotState 0) (.poolRelease 0#8) (holding .w120 1#8 false) = some (some .free) := by decide
theorem test_witness_TablesAndConfigurationKept :
    (∃ t, exec .poolAcquire (onPort .producer base) = .next t) ∧
    (∃ t, step (delivered [0x6000001C#32] dead) = .next t) ∧
    ∀ ok turns, (delivered [0x6000001C#32] dead).turns ≠ .reset ok :: turns :=
  ⟨⟨_, rfl⟩, ⟨_, rfl⟩, by simp [delivered]⟩
theorem test_witness_CountersMoveByOne :
    ∃ t, exec .poolAcquire { onPort .producer base with slots := pool .ready } = .next t ∧ t.cntDrop = 1#32 :=
  ⟨_, rfl, by decide⟩
theorem test_witness_TransferInFlightIsLeftAlone :
    ∃ t, exec (.sclBand 0#8) { inFlight .idle [] with cfg := { small with outRows := 1 } } = .next t ∧
      t.cntOverflow = 1#32 ∧ (inFlight .idle []).xfBusy = true := ⟨_, rfl, by decide +kernel, rfl⟩

theorem test_witness_FaultRecordKept :
    FaultRecordOk (delivered [0x14000000#32] base) ∧ ∃ t, step (delivered [0x14000000#32] base) = .next t :=
  ⟨⟨.inl rfl, by simp [delivered, base, State.resetWith]⟩, _, rfl⟩
theorem test_witness_SpacesKept : SpacesOk (inFlight draining [.port .consumer]) ∧
    ∃ t, step (inFlight draining [.port .consumer]) = .next t := ⟨(sound_draining _).spaces, _, rfl⟩
theorem test_witness_HoldersKept : HoldersOk (inFlight draining [.port .consumer]) ∧
    ∃ t, step (inFlight draining [.port .consumer]) = .next t := ⟨(sound_draining _).holders, _, rfl⟩
theorem test_witness_SoundKept : Sound (inFlight draining [.port .consumer]) ∧
    ∃ t, step (inFlight draining [.port .consumer]) = .next t := ⟨sound_draining _, _, rfl⟩
theorem test_witness_SoundStepsNeverReadUndef : Sound (inFlight waiting [.engine]) := sound_waiting _
theorem test_witness_LaterMicroStepsDoNotFault :
    let s := inFlight draining [.port .consumer]
    Sound s ∧ s.turns = .port .consumer :: [] ∧ 2 ≤ (s.port.get .consumer).step ∧ ∃ t, step s = .next t :=
  ⟨sound_draining _, rfl, by decide, _, rfl⟩
theorem test_witness_ResetIsSound : small.wellFormed = true ∧ Config.test.wellFormed = true := by decide

end Sys2Proof.Tests
end

section
/-! The scope family (00_scope): a machine is refused exactly when its configuration is ill-formed, the pure commands
change only their port and the fault record, and no step from a sound state reads `undef`. -/

namespace Sys2Proof.Machine

open Sys2Proof.Safety

/-! ## The configuration (00_scope R7) -/

/-- The bounds of R7, written out. -/
theorem wellFormed_iff (c : Config) : c.wellFormed = true ↔
    1 ≤ c.slotCount ∧ c.slotCount ≤ 256 ∧ 1 ≤ c.maxLines ∧ c.maxLines ≤ 15 ∧ c.maxLines ≤ c.outRows ∧
      c.outRows ≤ 255 ∧ 480 * c.maxLines ≤ c.slotBytes.toNat := by
  simp [Config.wellFormed, Config.slotCountOk, Config.maxLinesOk, Config.outRowsOk, Config.slotBytesOk, and_assoc]

theorem step_of_illFormed {s : State} (h : s.cfg.wellFormed = false) : step s = .refused .illFormedConfig := by
  simp [step, takeTurn, h]

theorem step_of_no_turn {s : State} (hw : s.cfg.wellFormed = true) (ht : s.turns = []) : step s = .next s := by
  simp [step, takeTurn, hw, ht]

theorem step_of_turn {s : State} {t : Turn} {rest : List Turn} (hw : s.cfg.wellFormed = true)
    (ht : s.turns = t :: rest) : step s = moveAgent exec t { s with turns := rest } := by
  simp [step, takeTurn, hw, ht]

/-- The widest band at full depth has 480 bytes per line. -/
theorem payloadBytes_le (w : SrcWidth) (lines : Nat) (full : Bool) : payloadBytes w lines full ≤ 480 * lines := by
  cases w <;> cases full <;> simp only [payloadBytes, SrcWidth.samples, bytesPerPixel] <;> simp <;> omega

/-- In a well-formed configuration the payload of an accepted header fits its slot. -/
theorem headerOf_fits {c : Config} {d : Datagram} {h : Header} (hw : c.wellFormed = true)
    (e : headerOf c.maxLines d = .ok h) : h.expected ≤ c.slotBytes.toNat := by
  obtain ⟨-, -, -, -, -, -, hbytes⟩ := (wellFormed_iff c).1 hw
  obtain ⟨-, hlines, hexp⟩ := headerOf_ok e
  calc h.expected = payloadBytes h.sourceWidth h.lineCount.toNat h.isFullDepth := hexp
    _ ≤ 480 * h.lineCount.toNat := payloadBytes_le _ _ _
    _ ≤ 480 * c.maxLines := Nat.mul_le_mul_left _ hlines
    _ ≤ c.slotBytes.toNat := hbytes

/-- Settles O8: the bounds by `wellFormed_iff`, the refusal by the step's first test, the fit by `headerOf_fits`. -/
theorem illFormedConfigurationRefused : Obligations.IllFormedConfigurationRefused := by
  refine ⟨wellFormed_iff, fun s => ⟨fun h => ?_, step_of_illFormed⟩, fun c b0 b1 b2 b3 b4 h hw e => ?_⟩
  · by_contra hw
    exact step_not_refused (Bool.not_eq_false _ ▸ hw) _ h
  · exact headerOf_fits (d := [b0, b1, b2, b3, b4]) hw e

/-! ## The pure commands (00_scope R13) -/

theorem State.finish_onlyPortAndFault (s : State) (code : Code) (data : Data) :
    OnlyPortAndFault s (s.finish code data) := by
  simp [OnlyPortAndFault, State.finish, State.conclude]

theorem State.setPortState_onlyPortAndFault (s : State) (ps : PortState) : OnlyPortAndFault s (s.setPortState ps) := by
  simp [OnlyPortAndFault, State.setPortState]

theorem State.faultEntry_onlyPortAndFault (s : State) (c : Cause) : OnlyPortAndFault s (s.faultEntry c) := by
  simp [OnlyPortAndFault, State.faultEntry, State.conclude, State.halt]

/-- A command whose micro-steps write nothing of the block changes only its port and the fault record. -/
theorem exec_onlyPortAndFault {i : Instr} {s t : State} (hpure : ∀ u, Effect i s u → u = s)
    (h : exec i s = .next t) : OnlyPortAndFault s t := by
  rcases exec_next h with ⟨u, code, data, hu, rfl⟩ | ⟨u, ps, hu, rfl⟩ | ⟨c, rfl⟩
  · rw [hpure u hu]; exact s.finish_onlyPortAndFault code data
  · rw [hpure u hu]; exact s.setPortState_onlyPortAndFault ps
  · exact s.faultEntry_onlyPortAndFault c

/-- The pure commands and CSR_READ have no effect but `same`: every other one names a command that is none of them. -/
theorem Effect.eq_of_pure {i : Instr} {s u : State}
    (hi : i.opcode ∈ [0x10#8, 0x11#8, 0x12#8, 0x20#8, 0x21#8, 0x30#8, 0x31#8, 0x32#8, 0x60#8])
    (e : Effect i s u) : u = s := by
  cases e
  case same => rfl
  case discard h => subst h; simp [Instr.opcode] at hi
  case poll h _ | claim h _ _ | drop h _ _ _ | select h _ _ _ =>
    rcases h with rfl | rfl <;> simp [Instr.opcode] at hi
  case short h | fill h _ _ _ _ _ _ | commit h _ _ _ | abort h _ _ =>
    rcases h with rfl | ⟨_, rfl⟩ <;> simp [Instr.opcode] at hi
  case overflow h _ | band h _ _ _ _ _ | release h _ =>
    rcases h with rfl | ⟨_, rfl⟩ | ⟨_, rfl⟩ <;> simp [Instr.opcode] at hi
  case push h _ _ =>
    rcases h with rfl | ⟨_, _, rfl⟩ | ⟨_, rfl⟩ <;> simp [Instr.opcode] at hi

/-- Settles O46: a pure command's only effect is `same`. -/
theorem pureCommandsChangeNothing : Obligations.PureCommandsChangeNothing :=
  fun _ _ _ hi h => exec_onlyPortAndFault (fun _ => Effect.eq_of_pure hi) h

end Sys2Proof.Machine
end

section
/-! No step from a sound state reads `undef` (10_state R46): each command's pseudocode finds defined whatever it reads, so
every micro-step answers a next state and raises no `F_UNDEF`. -/

namespace Sys2Proof.Machine

open Sys2Proof.Safety

/-! ## Micro-steps that read no `undef` -/

/-- The micro-step reads no `undef` and writes at no address that does not exist. -/
def Micro.ReadsDefined : Micro → Prop
  | .raise c => c ≠ .undef
  | .stop _ => False
  | _ => True

@[simp] theorem Micro.readsDefined_done (code : Code) (data : Data) (t : State) :
    (Micro.done code data t).ReadsDefined := trivial
@[simp] theorem Micro.readsDefined_next (sub : Option Status) (t : State) : (Micro.next sub t).ReadsDefined := trivial
@[simp] theorem Micro.readsDefined_hold : Micro.hold.ReadsDefined := trivial
@[simp] theorem Micro.readsDefined_raise (c : Cause) : (Micro.raise c).ReadsDefined ↔ c ≠ .undef := Iff.rfl
@[simp] theorem Micro.readsDefined_stop (f : Fault) : ¬ (Micro.stop f).ReadsDefined := id
@[simp] theorem perform_readsDefined (m : Micro) : (perform m).ReadsDefined ↔ m.ReadsDefined := by cases m <;> rfl
@[simp] theorem performKeeping_readsDefined (sub : Option Status) (m : Micro) :
    (performKeeping sub m).ReadsDefined ↔ m.ReadsDefined := by cases m <;> rfl

/-! ## Holders and slots -/

theorem State.slotState_eq_some {s : State} {k : Nat} {st : SlotState} :
    s.slotState k = some st ↔ ∃ sl, s.slots[k]? = some sl ∧ sl.state = st := by
  simp [State.slotState]

theorem State.consumerHolds_slot {s : State} {k : Nat} (h : s.consumerHolds k = true) :
    ∃ sl, s.slots[k]? = some sl ∧ sl.state = .displaying := by
  simp only [State.consumerHolds, Bool.and_eq_true, decide_eq_true_eq] at h
  exact State.slotState_eq_some.1 h.2

theorem State.producerHolds_slot {s : State} {k : Nat} (h : s.producerHolds k = true) :
    ∃ sl, s.slots[k]? = some sl ∧ sl.state = .filling := by
  simp only [State.producerHolds, Bool.and_eq_true, decide_eq_true_eq] at h
  exact State.slotState_eq_some.1 h.2

end Sys2Proof.Machine

namespace Sys2Proof.Safety

open Sys2Proof.Machine

/-! ## What a sound state holds -/

/-- Soundness does not speak of the inputs from outside, nor of the issuing port. -/
theorem Sound.of_inputs {s : State} (h : Sound s) (p : Port) (turns : List Turn) (q : PerPort (List Word)) :
    Sound { s with issuer := p, turns := turns, cmdq := q } :=
  ⟨h.config, h.faultRecord, h.spaces, h.holders, h.bands, h.transfer, h.tables, h.producer, h.consumer, h.host⟩

/-- A port of a sound state that has no command in progress is `(idle, 0)`. -/
theorem Sound.port_idle {s : State} (h : Sound s) {p : Port} (hp : (s.port.get p).cmd = none) :
    s.port.get p = .idle := by
  cases p with
  | producer =>
    rcases h.producer with e | ⟨e, _⟩
    · exact e
    · cases hp.symm.trans e
  | consumer =>
    rcases h.consumer with e | ⟨e, _⟩ | ⟨_, e, _⟩ | ⟨e, _⟩
    · exact e
    · cases hp.symm.trans e
    · cases hp.symm.trans e
    · cases hp.symm.trans e
  | host => exact h.host

/-- A SEQ_INGEST in progress is the PRODUCER's. -/
theorem Sound.ingestOk {s : State} (h : Sound s) {p : Port} (hp : (s.port.get p).cmd = some .seqIngest) :
    IngestOk s (s.port.get p).step (s.port.get p).sub := by
  cases p with
  | producer =>
    rcases h.producer with e | ⟨_, hok⟩
    · simp [PerPort.get, e, PortState.idle] at hp
    · exact hok
  | consumer =>
    simp only [PerPort.get] at hp
    rcases h.consumer with e | ⟨e, _⟩ | ⟨_, e, _⟩ | ⟨e, _⟩ <;> simp [e, PortState.idle] at hp
  | host => simp [PerPort.get, show s.port.host = .idle from h.host, PortState.idle] at hp

/-- An XFA_DRAIN in progress is the CONSUMER's. -/
theorem Sound.drainOk {s : State} (h : Sound s) {p : Port} {slot : BitVec 8}
    (hp : (s.port.get p).cmd = some (.xfaDrain slot)) : DrainOk s slot.toNat (s.port.get p).step := by
  cases p with
  | producer =>
    simp only [PerPort.get] at hp
    rcases h.producer with e | ⟨e, _⟩ <;> simp [e, PortState.idle] at hp
  | consumer =>
    simp only [PerPort.get] at hp ⊢
    rcases h.consumer with e | ⟨e, _⟩ | ⟨_, e, hok⟩ | ⟨e, _⟩
    · simp [e, PortState.idle] at hp
    · simp [e] at hp
    · cases e.symm.trans hp; exact hok
    · simp [e] at hp
  | host => simp [PerPort.get, show s.port.host = .idle from h.host, PortState.idle] at hp

/-- A SEQ_CONSUME in progress is the CONSUMER's, and has kept the band it selected. -/
theorem Sound.consumeOk {s : State} (h : Sound s) {p : Port} (hp : (s.port.get p).cmd = some .seqConsume) :
    ∃ code i fid y, (s.port.get p).sub = some ⟨code, .band i fid y⟩ ∧ DrainOk s i (s.port.get p).step := by
  cases p with
  | producer =>
    simp only [PerPort.get] at hp
    rcases h.producer with e | ⟨e, _⟩ <;> simp [e, PortState.idle] at hp
  | consumer =>
    simp only [PerPort.get] at hp ⊢
    rcases h.consumer with e | ⟨e, _⟩ | ⟨_, e, _⟩ | ⟨_, hok⟩
    · simp [e, PortState.idle] at hp
    · simp [e] at hp
    · simp [e] at hp
    · exact hok
  | host => simp [PerPort.get, show s.port.host = .idle from h.host, PortState.idle] at hp

/-- The last micro-step of a drain finds a latched band. -/
theorem DrainOk.latch {s : State} {i k : Nat} (h : DrainOk s i k) (hk : 5 ≤ k) : LatchOk s := by
  unfold DrainOk at h
  split at h
  · omega
  · omega
  · omega
  · exact h.2
  · exact h.elim

/-- A slot that `BandsOk` speaks of has metadata. -/
theorem BandsOk.slot_info {s : State} (h : BandsOk s) {k : Nat} {sl : Slot} (hk : s.slots[k]? = some sl)
    (hst : sl.state = .ready ∨ sl.state = .displaying ∨ (sl.state = .filling ∧ sl.filled = true)) :
    ∃ m, sl.info = some m := by
  obtain ⟨m, hm, -⟩ := h sl (List.mem_of_getElem? hk) hst
  exact ⟨m, hm⟩

end Sys2Proof.Safety

namespace Sys2Proof.Machine

open Sys2Proof.Safety

/-! ## The commands of the units -/

theorem hdrDecode_readsDefined (b0 b1 b2 b3 b4 : Byte) (s : State) : (hdrDecode b0 b1 b2 b3 b4 s).ReadsDefined := by
  unfold hdrDecode; split <;> simp

theorem lenCheck_readsDefined (flags : Byte) (n : Nat) (s : State) : (lenCheck flags n s).ReadsDefined := by
  unfold lenCheck
  split
  · simp
  · split <;> simp

theorem rxPoll_readsDefined (s : State) : (rxPoll s).ReadsDefined := by
  unfold rxPoll; split <;> simp

theorem pxcLookup_readsDefined {s : State} (hl : s.lut = builtLut s.cfg) (sample : Byte) :
    (pxcLookup sample s).ReadsDefined := by
  simp [pxcLookup, hl, builtLut_get]

theorem mapEntry_readsDefined (n : Nat) (s : State) : (mapEntry builtMap n s).ReadsDefined := by
  unfold mapEntry
  split
  · simp
  · next h => simp [builtMap_get (Nat.lt_of_not_le h)]

theorem sclGeom_readsDefined (res : BitVec 2) (lc : BitVec 4) (y : Half) (s : State) :
    (sclGeom res lc y s).ReadsDefined := by
  unfold sclGeom; split <;> simp

/-- SCL_BAND finds the metadata and every source pixel of the band it displays. -/
theorem sclBand_readsDefined {s : State} (hs : Sound s) (hrun : s.bstate = .run) (k : Nat) :
    (sclBand k s).ReadsDefined := by
  unfold sclBand
  split
  · simp
  · next hc =>
    obtain ⟨sl, hsl, hst⟩ := State.consumerHolds_slot (by simpa using hc)
    have hband : HoldsBand s.cfg sl := hs.bands sl (List.mem_of_getElem? hsl) (.inr (.inl hst))
    obtain ⟨m, hm⟩ := BandsOk.slot_info hs.bands hsl (.inr (.inl hst))
    obtain ⟨hlut, hhmap, hvmap⟩ := hs.tables hrun
    obtain ⟨pixels, hpx⟩ := bandPixels_defined hlut hhmap hvmap hband hm
    simp only [hsl, hm, hpx]
    split <;> simp

theorem poolAcquire_readsDefined (s : State) : (poolAcquire s).ReadsDefined := by
  unfold poolAcquire
  split
  · simp
  · split <;> simp

/-- POOL_FILL writes inside the slot: an accepted payload fits it (00_scope R7). -/
theorem poolFill_readsDefined {s : State} (hw : s.cfg.wellFormed = true) (k : Nat) :
    (poolFill k s).ReadsDefined := by
  unfold poolFill
  split
  · simp
  · split
    · simp
    · split
      · simp
      · next hh =>
        have hfit := headerOf_fits hw hh
        simp only [Nat.not_lt.2 hfit, if_false]
        split <;> simp

theorem poolCommit_readsDefined (k : Nat) (s : State) : (poolCommit k s).ReadsDefined := by
  unfold poolCommit; split <;> simp

theorem poolAbort_readsDefined (k : Nat) (s : State) : (poolAbort k s).ReadsDefined := by
  unfold poolAbort; split <;> simp

theorem poolRelease_readsDefined (k : Nat) (s : State) : (poolRelease k s).ReadsDefined := by
  unfold poolRelease; split <;> simp

/-- Where every `Ready` slot has metadata the least key is defined, and it is that of a `Ready` slot or the best so far. -/
theorem leastKey_defined {slots : List Slot} (h : ∀ sl ∈ slots, sl.state = .ready → sl.info.isSome) (i : Nat)
    (best : Option (Nat × Nat)) :
    ∃ r, leastKey slots i best = some r ∧
      (r = best ∨ ∃ j key sl, r = some (i + j, key) ∧ slots[j]? = some sl ∧ sl.state = .ready) := by
  induction slots generalizing i best with
  | nil => exact ⟨best, rfl, .inl rfl⟩
  | cons sl rest ih =>
    have hrest := ih fun x hx => h x (List.mem_cons_of_mem _ hx)
    /- What the rest answers from `best'`, where `best'` is `best` or this slot. -/
    have later : ∀ best', (best' = best ∨ (∃ key, best' = some (i, key)) ∧ sl.state = .ready) →
        ∃ r, leastKey rest (i + 1) best' = some r ∧
          (r = best ∨ ∃ j key sl', r = some (i + j, key) ∧ (sl :: rest)[j]? = some sl' ∧ sl'.state = .ready) := by
      intro best' hbest
      obtain ⟨r, hr, hcase⟩ := hrest (i + 1) best'
      refine ⟨r, hr, ?_⟩
      rcases hcase with rfl | ⟨j, key, sl', rfl, hj, hst⟩
      · rcases hbest with rfl | ⟨⟨key, rfl⟩, hst⟩
        · exact .inl rfl
        · exact .inr ⟨0, key, sl, rfl, rfl, hst⟩
      · exact .inr ⟨j + 1, key, sl', by rw [Nat.add_right_comm, Nat.add_assoc], hj, hst⟩
    unfold leastKey
    split
    · next hst =>
      obtain ⟨m, hm⟩ := Option.isSome_iff_exists.1 (h sl List.mem_cons_self hst)
      rw [hm]
      cases best with
      | none => exact later _ (.inr ⟨⟨_, rfl⟩, hst⟩)
      | some b =>
        dsimp only
        split
        · exact later _ (.inr ⟨⟨_, rfl⟩, hst⟩)
        · exact later _ (.inl rfl)
    · exact later best (.inl rfl)

/-- The selection is defined where every `Ready` slot has metadata, and selects a `Ready` slot. -/
theorem selectSlot_defined {c : Config} {slots : List Slot} (h : ∀ sl ∈ slots, sl.state = .ready → sl.info.isSome) :
    selectSlot c slots = some none ∨
      ∃ k sl, selectSlot c slots = some (some k) ∧ slots[k]? = some sl ∧ sl.state = .ready := by
  unfold selectSlot
  split
  · obtain ⟨r, hr, rfl | ⟨j, key, sl, rfl, hj, hst⟩⟩ := leastKey_defined h 0 none
    · exact .inl (by rw [hr]; rfl)
    · exact .inr ⟨j, sl, by simp [hr], hj, hst⟩
  · cases hf : slots.findIdx? (fun sl => sl.state = .ready) with
    | none => exact .inl rfl
    | some k =>
      obtain ⟨hk, hst, -⟩ := List.findIdx?_eq_some_iff_getElem.1 hf
      exact .inr ⟨k, slots[k], rfl, List.getElem?_eq_getElem hk, by simpa using hst⟩

/-- POOL_SELECT finds the metadata of every `Ready` slot. -/
theorem poolSelect_readsDefined {s : State} (hb : BandsOk s) : (poolSelect s).ReadsDefined := by
  have hready : ∀ sl ∈ s.slots, sl.state = .ready → sl.info.isSome := fun sl hsl hst => by
    obtain ⟨m, hm, -⟩ := hb sl hsl (.inl hst)
    simp [hm]
  unfold poolSelect
  split
  · simp
  · rcases selectSlot_defined (c := s.cfg) hready with e | ⟨k, sl, e, hk, hst⟩
    · simp [e]
    · obtain ⟨m, hm⟩ := BandsOk.slot_info hb hk (.inl hst)
      simp [e, hk, hm]

theorem xfaWait_readsDefined (s : State) : (xfaWait s).ReadsDefined := by
  unfold xfaWait; split <;> simp

theorem xfaPush_readsDefined (y h : Nat) (s : State) : (xfaPush y h s).ReadsDefined := by
  unfold xfaPush
  split
  · simp
  · split <;> simp

/-- CSR_READ finds every slot of the pool. -/
theorem csrRead_readsDefined {s : State} (hlen : s.slots.length = s.cfg.slotCount) (addr : Nat) :
    (csrRead addr s).ReadsDefined := by
  unfold csrRead
  split
  · simp
  · split
    · simp
    · split
      · next hslot =>
        have hk : (addr - 0x400) / 4 < s.slots.length := hlen ▸ hslot.2
        simp [State.slotState, List.getElem?_eq_getElem hk]
      · simp

/-! ## The composite commands -/

/-- A micro-step that is none of the first four is the last. -/
theorem five_le_of_later {k : Nat} (h1 : 1 ≤ k) (n1 : k ≠ 1) (n2 : k ≠ 2) (n3 : k ≠ 3) (n4 : k ≠ 4) : 5 ≤ k := by
  omega

theorem pushDrained_readsDefined {s : State} (h : LatchOk s) (i : Nat) : (pushDrained i s).ReadsDefined := by
  obtain ⟨l, hl, -⟩ := h
  have hpush := xfaPush_readsDefined l.y.toNat l.h.toNat s
  simp only [pushDrained, hl]
  split
  · split
    · simp
    · exact hpush
  · simp

theorem drainStep_readsDefined {s : State} (hs : Sound s) (hrun : s.bstate = .run) (slot : Nat) {k : Nat} (h1 : 1 ≤ k)
    (h5 : 5 ≤ k → LatchOk s) : (drainStep slot s k).ReadsDefined := by
  unfold drainStep
  split
  · split <;> simp
  · split <;> simp
  · simpa using sclBand_readsDefined hs hrun slot
  · simpa using poolRelease_readsDefined slot s
  · next n1 n2 n3 n4 => exact pushDrained_readsDefined (h5 (five_le_of_later h1 n1 n2 n3 n4)) slot

theorem ingestPoll_readsDefined (s : State) : (ingestPoll s).ReadsDefined := by
  unfold ingestPoll
  split
  · simp
  · split <;> simp

theorem ingestCheck_readsDefined (s : State) : (ingestCheck s).ReadsDefined := by
  unfold ingestCheck
  split
  · simp
  · split <;> simp

theorem ingestAcquire_readsDefined (s : State) : (ingestAcquire s).ReadsDefined := by
  unfold ingestAcquire
  split
  · simp
  · simpa using poolAcquire_readsDefined s

theorem ingestFill_readsDefined {s : State} (hw : s.cfg.wellFormed = true) : (ingestFill s).ReadsDefined := by
  unfold ingestFill
  split
  · simp
  · simpa using poolFill_readsDefined hw _

/-- The slot a commit publishes holds the band that SEQ_INGEST reports. -/
theorem acceptedBand_of_commit {s u : State} (hb : BandsOk s) {i : Nat} {code : Code} {data : Data}
    (h : poolCommit i s = .done code data u) : acceptedBand i s ≠ none := by
  obtain ⟨hp, hf, -⟩ := poolCommit_after (k := i) (s := s) (u := u) (by rw [h]; rfl)
  obtain ⟨sl, hsl, hst⟩ := State.producerHolds_slot hp
  obtain ⟨m, hm⟩ := BandsOk.slot_info hb hsl (.inr (.inr ⟨hst, by simpa [hsl] using hf⟩))
  simp [acceptedBand, hsl, hm]

theorem ingestEnd_readsDefined {s : State} (hb : BandsOk s) (hsub : s.portState.sub ≠ none) :
    (ingestEnd s).ReadsDefined := by
  unfold ingestEnd
  split
  · next i _ _ _ =>
    have hcommit := poolCommit_readsDefined i s
    split
    · simp
    · next hnone hdone => exact absurd hnone (acceptedBand_of_commit hb hdone)
    · exact hcommit
  · next i _ _ _ _ _ =>
    have habort := poolAbort_readsDefined i s
    split
    · simp
    · exact habort
  · next hnone => exact absurd hnone hsub
  · simp

theorem ingestStep_readsDefined {s : State} (hs : Sound s) {k : Nat} (h1 : 1 ≤ k)
    (h5 : 5 ≤ k → s.portState.sub ≠ none) : (ingestStep s k).ReadsDefined := by
  unfold ingestStep
  split
  · exact ingestPoll_readsDefined s
  · exact ingestCheck_readsDefined s
  · exact ingestAcquire_readsDefined s
  · exact ingestFill_readsDefined hs.config
  · next n1 n2 n3 n4 => exact ingestEnd_readsDefined hs.bands (h5 (five_le_of_later h1 n1 n2 n3 n4))

theorem consumeSelect_readsDefined {s : State} (hb : BandsOk s) : (consumeSelect s).ReadsDefined := by
  unfold consumeSelect
  split
  · simp
  · simpa using poolSelect_readsDefined hb

theorem onHeldSlot_readsDefined {s : State} {body : Nat → Micro} (h : ∀ i, (body i).ReadsDefined) :
    (onHeldSlot s body).ReadsDefined := by
  unfold onHeldSlot
  split
  · simp
  · exact h _

theorem consumeEnd_readsDefined {s : State} {code : Code} {i : Nat} {fid y : Half}
    (hsub : s.portState.sub = some ⟨code, .band i fid y⟩) (hl : LatchOk s) : (consumeEnd s).ReadsDefined := by
  simp only [consumeEnd, hsub]
  exact pushDrained_readsDefined hl i

theorem consumeStep_readsDefined {s : State} (hs : Sound s) (hrun : s.bstate = .run) {k : Nat} (h1 : 1 ≤ k)
    (h5 : 5 ≤ k → LatchOk s ∧ ∃ code i fid y, s.portState.sub = some ⟨code, .band i fid y⟩) :
    (consumeStep s k).ReadsDefined := by
  unfold consumeStep
  split
  · exact consumeSelect_readsDefined hs.bands
  · split <;> simp
  · simpa using onHeldSlot_readsDefined fun i => sclBand_readsDefined hs hrun i
  · simpa using onHeldSlot_readsDefined fun i => poolRelease_readsDefined i s
  · next n1 n2 n3 n4 =>
    obtain ⟨hl, _, _, _, _, hsub⟩ := h5 (five_le_of_later h1 n1 n2 n3 n4)
    exact consumeEnd_readsDefined hsub hl

/-! ## Every command -/

/-- The issuing port is taking command `i`, or has it in progress. -/
def MayRun (i : Instr) (s : State) : Prop := s.portState = .idle ∨ s.portState.cmd = some i

theorem State.one_le_microStep (s : State) : 1 ≤ s.microStep := by
  unfold State.microStep; split <;> omega

/-- A command past its first micro-step is in progress on its port. -/
theorem MayRun.inProgress {i : Instr} {s : State} (h : MayRun i s) (hk : 2 ≤ s.microStep) :
    s.portState.cmd = some i ∧ s.microStep = s.portState.step := by
  unfold State.microStep at hk ⊢
  split at hk
  · omega
  · next hstep =>
    rcases h with e | e
    · simp [e, PortState.idle] at hstep
    · exact ⟨e, if_neg hstep⟩

theorem drain_latched {s : State} (hs : Sound s) {slot : BitVec 8} (hp : MayRun (.xfaDrain slot) s)
    (hk : 5 ≤ s.microStep) : LatchOk s := by
  obtain ⟨hcmd, hstep⟩ := hp.inProgress (by omega)
  exact (hs.drainOk hcmd).latch (hstep ▸ hk)

theorem ingest_statusKept {s : State} (hs : Sound s) (hp : MayRun .seqIngest s) (hk : 5 ≤ s.microStep) :
    s.portState.sub ≠ none := by
  obtain ⟨hcmd, hstep⟩ := hp.inProgress (by omega)
  have hok : IngestOk s s.portState.step s.portState.sub := hs.ingestOk hcmd
  unfold IngestOk at hok
  split at hok
  · omega
  · omega
  · omega
  · obtain ⟨_, st, -, hsub, -⟩ := hok
    simp [hsub]
  · exact hok.elim

theorem consume_latched {s : State} (hs : Sound s) (hp : MayRun .seqConsume s) (hk : 5 ≤ s.microStep) :
    LatchOk s ∧ ∃ code i fid y, s.portState.sub = some ⟨code, .band i fid y⟩ := by
  obtain ⟨hcmd, hstep⟩ := hp.inProgress (by omega)
  obtain ⟨code, i, fid, y, hsub, hok⟩ := hs.consumeOk hcmd
  exact ⟨hok.latch (hstep ▸ hk), code, i, fid, y, hsub⟩

/-- A command that is not turned away runs on a running block, but for CSR_READ. -/
theorem running_of_not_turnedAway {i : Instr} {s : State} (h : turnedAway i s = false) (hi : i.opcode ≠ 0x60#8) :
    s.bstate = .run := by
  cases hb : s.bstate with
  | run => rfl
  | halted => simp [turnedAway, performedHalted, hb, hi] at h

/-- From a sound state no micro-step of any command reads `undef`. -/
theorem bodyOf_readsDefined {i : Instr} {s : State} (hs : Sound s) (hp : MayRun i s) (h : turnedAway i s = false) :
    (bodyOf i s).ReadsDefined := by
  have hrun := running_of_not_turnedAway h
  have h1 := s.one_le_microStep
  cases i with
  | hdrDecode => exact hdrDecode_readsDefined ..
  | hdrEncode => trivial
  | hdrCheckLen => exact lenCheck_readsDefined ..
  | rxPoll => exact rxPoll_readsDefined s
  | pxcExpand => trivial
  | pxcLookup sample =>
    obtain ⟨hlut, -, -⟩ := hs.tables (hrun (by simp [Instr.opcode]))
    exact pxcLookup_readsDefined hlut sample
  | sclHmap n =>
    obtain ⟨-, hhmap, -⟩ := hs.tables (hrun (by simp [Instr.opcode]))
    simpa only [bodyOf, hhmap] using mapEntry_readsDefined n.toNat s
  | sclVmap n =>
    obtain ⟨-, -, hvmap⟩ := hs.tables (hrun (by simp [Instr.opcode]))
    simpa only [bodyOf, hvmap] using mapEntry_readsDefined n.toNat s
  | sclGeom => exact sclGeom_readsDefined ..
  | sclBand slot => exact sclBand_readsDefined hs (hrun (by simp [Instr.opcode])) slot.toNat
  | poolAcquire => exact poolAcquire_readsDefined s
  | poolFill slot => exact poolFill_readsDefined hs.config slot.toNat
  | poolCommit => exact poolCommit_readsDefined ..
  | poolAbort => exact poolAbort_readsDefined ..
  | poolSelect => exact poolSelect_readsDefined hs.bands
  | poolRelease => exact poolRelease_readsDefined ..
  | xfaWait => exact xfaWait_readsDefined s
  | xfaPush => exact xfaPush_readsDefined ..
  | xfaDrain slot =>
    exact drainStep_readsDefined hs (hrun (by simp [Instr.opcode])) slot.toNat h1 (drain_latched hs hp)
  | csrRead addr =>
    obtain ⟨hlen, -, -⟩ := hs.holders
    exact csrRead_readsDefined hlen addr.toNat
  | seqIngest => exact ingestStep_readsDefined hs h1 (ingest_statusKept hs hp)
  | seqConsume => exact consumeStep_readsDefined hs (hrun (by simp [Instr.opcode])) h1 (consume_latched hs hp)

/-! ## Every turn -/

/-- `t` shows `F_UNDEF`, in the fault record or as a port's result, only where `s` does. -/
def NoNewUndef (s t : State) : Prop :=
  (t.faultCause = Cause.undef.code → s.faultCause = Cause.undef.code) ∧
  ∀ p, t.result.get p = some (.fault .undef) → s.result.get p = some (.fault .undef)

/-- The outcome is a next state, and it shows no new `F_UNDEF`. -/
def AnswersDefined (s : State) (o : Host.Outcome State Fault Refusal) : Prop := ∃ t, o = .next t ∧ NoNewUndef s t

theorem NoNewUndef.of_eq {s t : State} (hf : t.faultCause = s.faultCause) (hr : t.result = s.result) :
    NoNewUndef s t := by
  simp [NoNewUndef, hf, hr]

/-- A result other than `F_UNDEF` on the issuing port is no new `F_UNDEF`. -/
theorem NoNewUndef.conclude {s u : State} (h : NoNewUndef s u) {r : Result} (hr : r ≠ .fault .undef) :
    NoNewUndef s (u.conclude r) := by
  refine ⟨h.1, fun p hp => ?_⟩
  by_cases hpi : p = u.issuer
  · subst hpi; simp [hr] at hp
  · exact h.2 p (by simpa [PerPort.get_set_ne _ hpi] using hp)

theorem NoNewUndef.finish {s u : State} (h : NoNewUndef s u) (code : Code) (data : Data) :
    NoNewUndef s (u.finish code data) :=
  h.conclude (by simp)

/-- A halt with another cause than `F_UNDEF` records no new `F_UNDEF`. -/
theorem NoNewUndef.halt {s : State} {c : Cause} (hc : c ≠ .undef) : NoNewUndef s (s.halt c) := by
  refine ⟨fun h => ?_, fun _ => id⟩
  rw [State.halt_faultCause] at h
  split at h
  · exact absurd (Cause.code_injective h) hc
  · exact h

/-- A fault with another cause than `F_UNDEF` is no new `F_UNDEF`. -/
theorem NoNewUndef.faultEntry {s : State} {c : Cause} (hc : c ≠ .undef) : NoNewUndef s (s.faultEntry c) :=
  (NoNewUndef.halt hc).conclude (by simpa using hc)

/-- No effect of a micro-step writes the fault record or a result. -/
theorem Effect.noNewUndef {i : Instr} {s u : State} (e : Effect i s u) : NoNewUndef s u := by
  cases e <;> exact .of_eq rfl rfl

theorem settle_answersDefined {i : Instr} {k : Nat} {s : State} {m : Micro} (hm : m.ReadsDefined)
    (he : ∀ u, m.after = some u → Effect i s u) : AnswersDefined s (settle i k s m) := by
  cases m with
  | done code data u => exact ⟨_, rfl, (he u rfl).noNewUndef.finish code data⟩
  | next sub u => exact ⟨_, rfl, (he u rfl).noNewUndef⟩
  | hold => exact ⟨_, rfl, .of_eq rfl rfl⟩
  | raise c => exact ⟨_, rfl, .faultEntry hm⟩
  | stop f => exact hm.elim

theorem exec_answersDefined {i : Instr} {s : State} (hs : Sound s) (hp : MayRun i s) : AnswersDefined s (exec i s) := by
  rcases exec_cases (i := i) (s := s) rfl with ⟨-, e⟩ | ⟨-, -, -, e⟩ | ⟨-, -, -, e⟩ | ⟨h, -, e⟩ <;> rw [e]
  · exact ⟨_, rfl, NoNewUndef.finish (.of_eq rfl rfl) _ _⟩
  · exact ⟨_, rfl, .faultEntry (by decide)⟩
  · exact ⟨_, rfl, .faultEntry (by decide)⟩
  · exact settle_answersDefined (bodyOf_readsDefined hs hp h) fun _ => bodyOf_after

theorem acceptCommand_answersDefined {s : State} (hs : Sound s) (hidle : s.portState = .idle) :
    AnswersDefined s (acceptCommand exec s) := by
  unfold acceptCommand
  split
  · exact ⟨s, rfl, .of_eq rfl rfl⟩
  · split
    · exact ⟨s, rfl, .of_eq rfl rfl⟩
    · dsimp only
      split
      · exact ⟨_, rfl, NoNewUndef.finish (.of_eq rfl rfl) _ _⟩
      · split
        · exact ⟨_, rfl, NoNewUndef.faultEntry (c := .illegalCmd) (by decide)⟩
        · exact exec_answersDefined (hs.of_inputs s.issuer s.turns _) (.inl hidle)

theorem portTurn_answersDefined {s : State} (hs : Sound s) (p : Port) : AnswersDefined s (portTurn exec p s) := by
  have ht : Sound { s with issuer := p } := hs.of_inputs p s.turns s.cmdq
  simp only [portTurn]
  split
  · next i hi => exact exec_answersDefined ht (.inr hi)
  · next hi => exact acceptCommand_answersDefined ht (hs.port_idle hi)

/-- The rows of an output buffer whose bytes are all written can be read. -/
theorem bufferPixels_defined {o : ByteOrder} {m : Memory} {h : Nat}
    (hm : ∀ k < 480 * h, (Sparse.read m k).isSome) : ∃ pixels, bufferPixels o m h = some pixels := by
  apply allDefined_isSome
  intro r hr
  obtain ⟨k, hk, rfl⟩ := List.mem_map.1 hr
  have hk : k < 240 * h := List.mem_range.1 hk
  obtain ⟨a, ha⟩ := Option.isSome_iff_exists.1 (hm (2 * k) (by omega))
  obtain ⟨b, hb⟩ := Option.isSome_iff_exists.1 (hm (2 * k + 1) (by omega))
  simp [readPixel, ha, hb]

/-- The ENGINE finds every byte of a transfer in flight written, and its rectangle inside the panel. -/
theorem engineRetire_answersDefined {s : State} (h : TransferOk s) : AnswersDefined s (engineRetire s) := by
  obtain ⟨hflight, hrows⟩ := h
  unfold engineRetire
  split
  · exact ⟨s, rfl, .of_eq rfl rfl⟩
  · next hx =>
    obtain ⟨hbuf, -, hh, hpanel⟩ := hflight (by simpa using hx)
    have hread : ∀ k < 480 * s.xfDesc.h.toNat, (Sparse.read (s.obuf.get s.xfDesc.buf) k).isSome :=
      fun k hk => hbuf ▸ (hrows s.abi).2 k (by omega)
    obtain ⟨pixels, hpx⟩ := bufferPixels_defined (o := s.cfg.pixelOrder) hread
    rw [if_neg (Nat.not_lt.2 hpanel), hpx]
    exact ⟨_, rfl, .of_eq rfl rfl⟩

theorem transportStep_noNewUndef (s : State) : NoNewUndef s (transportStep s) := by
  unfold transportStep; split <;> exact .of_eq rfl rfl

/-- Reset records no fault but `F_ALLOC`, and clears the results. -/
theorem again_noNewUndef (s : State) (ok : Bool) : NoNewUndef s (s.again ok) := by
  refine ⟨fun h => ?_, fun p h => ?_⟩
  · cases ok <;> simp [State.again, State.resetWith, Cause.code] at h
  · simp [State.again, State.resetWith] at h

theorem moveAgent_answersDefined {s : State} (hs : Sound s) (t : Turn) : AnswersDefined s (moveAgent exec t s) := by
  cases t with
  | port p => exact portTurn_answersDefined hs p
  | engine => exact engineRetire_answersDefined hs.transfer
  | transport => exact ⟨_, rfl, transportStep_noNewUndef s⟩
  | reset ok => exact ⟨_, rfl, again_noNewUndef s ok⟩

/-- Settles O57: by the agent whose turn it is; a command's micro-step by `bodyOf_readsDefined`. -/
theorem soundStepsNeverReadUndef : Obligations.SoundStepsNeverReadUndef := by
  intro s hs
  cases ht : s.turns with
  | nil => exact ⟨s, step_of_no_turn hs.config ht, NoNewUndef.of_eq rfl rfl⟩
  | cons t rest =>
    rw [step_of_turn hs.config ht]
    exact moveAgent_answersDefined (hs.of_inputs s.issuer rest s.cmdq) t

end Sys2Proof.Machine
end

section
/-! The state family (10_state), the invariants of the block: a property that no agent's move breaks is kept by every step
(`KeptByAgents`), and the parts of `Sound` that do not speak of the ports are such properties (10_state R45). -/

namespace Sys2Proof.Machine

open Sys2Proof.Safety

/-! ## Invariants of the block -/

/-- A property of the block that no agent's move breaks: it does not speak of the ports or of what comes from outside, and
neither a command's effect, nor a halt, nor the retire of a transfer breaks it. -/
structure KeptByAgents (P : State → Prop) : Prop where
  inputs : ∀ (u : State) port result issuer turns cmdq rxq air, P u →
    P { u with port := port, result := result, issuer := issuer, turns := turns, cmdq := cmdq, rxq := rxq, air := air }
  effect : ∀ {i : Instr} {u v : State}, Effect i u v → P u → P v
  halt : ∀ {u : State} (c : Cause), P u → P (u.halt c)
  retire : ∀ {u : State} {pixels : List Half}, u.xfDesc.y.toNat + u.xfDesc.h.toNat ≤ 240 →
    pixels.length = 240 * u.xfDesc.h.toNat → P u →
    P { u with panel := Sparse.write u.panel (240 * u.xfDesc.y.toNat) pixels, xfBusy := false }

section
variable {P : State → Prop} (hP : KeptByAgents P)
include hP

theorem KeptByAgents.finish {u : State} (h : P u) (code : Code) (data : Data) : P (u.finish code data) :=
  hP.inputs u _ _ u.issuer u.turns u.cmdq u.rxq u.air h

theorem KeptByAgents.setPortState {u : State} (h : P u) (ps : PortState) : P (u.setPortState ps) :=
  hP.inputs u _ u.result u.issuer u.turns u.cmdq u.rxq u.air h

theorem KeptByAgents.faultEntry {u : State} (h : P u) (c : Cause) : P (u.faultEntry c) :=
  hP.inputs (u.halt c) _ _ u.issuer u.turns u.cmdq u.rxq u.air (hP.halt c h)

theorem KeptByAgents.exec {i : Instr} {u t : State} (h : P u) (e : exec i u = .next t) : P t := by
  rcases exec_next e with ⟨v, code, data, hv, rfl⟩ | ⟨v, ps, hv, rfl⟩ | ⟨c, rfl⟩
  · exact hP.finish (hP.effect hv h) code data
  · exact hP.setPortState (hP.effect hv h) ps
  · exact hP.faultEntry h c

theorem KeptByAgents.portTurn {p : Port} {u t : State} (h : P u) (e : portTurn Machine.exec p u = .next t) : P t := by
  have taken : ∀ q, P { u with issuer := p, cmdq := q } := fun q =>
    hP.inputs u u.port u.result p u.turns q u.rxq u.air h
  rcases portTurn_cases e with rfl | ⟨q, -, rfl⟩ | ⟨q, -, rfl⟩ | ⟨i, -, e⟩ | ⟨q, i, -, e⟩
  · exact taken u.cmdq
  · exact hP.finish (taken q) _ _
  · exact hP.faultEntry (taken q) _
  · exact hP.exec (taken u.cmdq) e
  · exact hP.exec (taken q) e

theorem KeptByAgents.engineRetire {u t : State} (h : P u) (e : engineRetire u = .next t) : P t := by
  rcases engineRetire_cases e with ⟨-, rfl⟩ | ⟨-, -, rfl⟩ | ⟨pixels, -, hpanel, hlen, -, rfl⟩
  · exact h
  · exact hP.halt _ h
  · exact hP.retire hpanel hlen h

theorem KeptByAgents.transportStep {u : State} (h : P u) : P (transportStep u) := by
  unfold Machine.transportStep
  split
  · exact h
  · exact hP.inputs u u.port u.result u.issuer u.turns u.cmdq _ _ h

theorem KeptByAgents.again {u : State} {ok : Bool} (h : P (State.resetWith u.cfg ok)) : P (u.again ok) :=
  hP.inputs (State.resetWith u.cfg ok) _ _ _ u.turns u.cmdq _ u.air h

/-- A step keeps what no agent's move breaks; where the step is a reset, what holds after reset. -/
theorem KeptByAgents.step {s t : State} (h : P s) (e : step s = .next t)
    (hreset : ∀ ok turns, s.turns = .reset ok :: turns → P (State.resetWith s.cfg ok)) : P t := by
  obtain ⟨-, ⟨-, rfl⟩ | ⟨turn, rest, ht, hmove⟩⟩ := step_cases e
  · exact h
  · have spent : P { s with turns := rest } := hP.inputs s s.port s.result s.issuer rest s.cmdq s.rxq s.air h
    rcases hmove with ⟨p, rfl, e⟩ | ⟨rfl, e⟩ | ⟨rfl, rfl⟩ | ⟨ok, rfl, rfl⟩
    · exact hP.portTurn spent e
    · exact hP.engineRetire spent e
    · exact hP.transportStep spent
    · exact hP.again (hreset ok rest ht)

end

/-! ## The fault record (10_state R22, R23; 60_exceptions R155, R156) -/

theorem Effect.bstate {i : Instr} {s u : State} (e : Effect i s u) : u.bstate = s.bstate := by cases e <;> rfl

theorem Effect.faultCause {i : Instr} {s u : State} (e : Effect i s u) : u.faultCause = s.faultCause := by
  cases e <;> rfl

theorem Effect.cfg {i : Instr} {s u : State} (e : Effect i s u) : u.cfg = s.cfg := by cases e <;> rfl

theorem Cause.code_ne_zero (c : Cause) : c.code ≠ 0#8 := by cases c <;> decide

/-- A halt records a code, the first one. -/
theorem State.halt_faultRecordOk {s : State} (h : FaultRecordOk s) (c : Cause) : FaultRecordOk (s.halt c) := by
  obtain ⟨hcode, -⟩ := h
  by_cases h0 : s.faultCause = 0#8
  · exact ⟨.inr ⟨c, by simp [h0]⟩, by simp [h0, c.code_ne_zero]⟩
  · exact ⟨by simpa [h0] using hcode, by simp [h0]⟩

theorem faultRecordOk_kept : KeptByAgents FaultRecordOk where
  inputs _ _ _ _ _ _ _ _ h := h
  effect e h := by rw [FaultRecordOk, e.bstate, e.faultCause]; exact h
  halt c h := State.halt_faultRecordOk h c
  retire _ _ h := h

theorem resetWith_faultRecordOk (c : Config) (ok : Bool) : FaultRecordOk (State.resetWith c ok) := by
  cases ok
  · exact ⟨.inr ⟨.alloc, rfl⟩, by simp [State.resetWith, Cause.code]⟩
  · exact ⟨.inl rfl, by simp [State.resetWith]⟩

/-- Settles O53: the fault record is written by halts and by reset alone. -/
theorem faultRecordKept : Obligations.FaultRecordKept :=
  fun s _ h e => faultRecordOk_kept.step h e fun ok _ _ => resetWith_faultRecordOk s.cfg ok

/-- `u` is halted if `s` is, and has the fault cause of `s` if `s` has one. -/
def KeepsFault (s u : State) : Prop :=
  (s.bstate = .halted → u.bstate = .halted) ∧ (s.faultCause ≠ 0#8 → u.faultCause = s.faultCause)

theorem KeepsFault.halt {s u : State} (h : KeepsFault s u) (c : Cause) : KeepsFault s (u.halt c) := by
  refine ⟨fun _ => rfl, fun h0 => ?_⟩
  rw [State.halt_faultCause, h.2 h0, if_neg h0]

theorem keepsFault_kept (s : State) : KeptByAgents (KeepsFault s) where
  inputs _ _ _ _ _ _ _ _ h := h
  effect e h := by rw [KeepsFault, e.bstate, e.faultCause]; exact h
  halt c h := h.halt c
  retire _ _ h := h

/-- Settles O14: no agent's move but reset clears `BSTATE` or the first cause. -/
theorem haltIsKept : Obligations.HaltIsKept :=
  fun s _ e hno => (keepsFault_kept s).step ⟨id, fun _ => rfl⟩ e fun ok turns ht => absurd ht (hno ok turns)

/-! ## The holders (10_state R20, R45; 43_pool R132) -/

/-- The handle `h` names the one slot in state `x`, if there is one. -/
def Names (s : State) (h : Option Nat) (x : SlotState) : Prop := ∀ i, h = some i ↔ s.slotState i = some x

theorem holdersOk_iff (s : State) :
    HoldersOk s ↔ s.slots.length = s.cfg.slotCount ∧ Names s s.ph .filling ∧ Names s s.ch .displaying := Iff.rfl

/-- The slot states after slot `k` of the pool moves to state `y`. -/
theorem State.slotState_move {s : State} {k : Nat} {x y : SlotState} {f : Slot → Slot} (hk : s.slotState k = some x)
    (hf : ∀ sl, (f sl).state = y) (j : Nat) :
    (s.updateSlot k f).slotState j = if j = k then some y else s.slotState j := by
  by_cases hj : j = k
  · subst hj
    obtain ⟨sl, hsl, -⟩ := State.slotState_eq_some.1 hk
    simp [State.updateSlot_slotState_self, hsl, hf]
  · rw [if_neg hj, State.updateSlot_slotState_ne s (Ne.symm hj)]

section
variable {s : State} {k : Nat} {x y z : SlotState} {f : Slot → Slot} {h : Option Nat}

/-- A slot that enters state `z`, in which no slot was, is the one the handle is to name. -/
theorem Names.enter (hn : Names s none z) (hk : s.slotState k = some x) (hf : ∀ sl, (f sl).state = z) :
    Names (s.updateSlot k f) (some k) z := by
  intro j
  rw [State.slotState_move hk hf]
  by_cases hj : j = k
  · simp [hj]
  · simpa [hj, Ne.symm hj] using hn j

/-- When the slot a handle names leaves its state, the handle is to name none. -/
theorem Names.leave (hn : Names s (some k) z) (hk : s.slotState k = some x) (hf : ∀ sl, (f sl).state = y) (hy : y ≠ z) :
    Names (s.updateSlot k f) none z := by
  intro j
  rw [State.slotState_move hk hf]
  by_cases hj : j = k
  · simp [hj, hy]
  · simpa [hj, Ne.symm hj] using hn j

/-- A move between two other states is none of the handle's concern. -/
theorem Names.other (hn : Names s h z) (hk : s.slotState k = some x) (hf : ∀ sl, (f sl).state = y) (hx : x ≠ z)
    (hy : y ≠ z) : Names (s.updateSlot k f) h z := by
  intro j
  rw [State.slotState_move hk hf, hn j]
  by_cases hj : j = k
  · subst hj; simp [hk, hx, hy]
  · simp [hj]

end

/-- A fill leaves every slot in its state. -/
theorem State.slotState_fill (s : State) (k : Nat) (h : Header) (d : Datagram) (j : Nat) :
    (s.updateSlot k (filledSlot h d)).slotState j = s.slotState j := by
  by_cases hj : k = j
  · subst hj; rw [State.updateSlot_slotState_self]; rfl
  · exact State.updateSlot_slotState_ne s hj _

theorem firstFree_slotState {s : State} {k : Nat} (h : firstFree s.slots = some k) : s.slotState k = some .free := by
  obtain ⟨hk, hst, -⟩ := List.findIdx?_eq_some_iff_getElem.1 h
  exact State.slotState_eq_some.2 ⟨s.slots[k], List.getElem?_eq_getElem hk, by simpa using hst⟩

/-- The least key is defined only where every `Ready` slot has metadata. -/
theorem leastKey_info {slots : List Slot} {i : Nat} {best r : Option (Nat × Nat)} (h : leastKey slots i best = some r) :
    ∀ sl ∈ slots, sl.state = .ready → sl.info.isSome := by
  induction slots generalizing i best with
  | nil => simp
  | cons sl rest ih =>
    rw [List.forall_mem_cons]
    unfold leastKey at h
    split at h
    · split at h
      · cases h
      · next m hm =>
        refine ⟨fun _ => by simp [hm], ?_⟩
        split at h <;> exact ih h
    · next hst => exact ⟨fun e => absurd e hst, ih h⟩

/-- The selected slot is `Ready` (43_pool R127 to R129). -/
theorem selectSlot_slotState {s : State} {k : Nat} (h : selectSlot s.cfg s.slots = some (some k)) :
    s.slotState k = some .ready := by
  unfold selectSlot at h
  split at h
  · simp only [Option.map_eq_some_iff] at h
    obtain ⟨best, hbest, ⟨k', key⟩, rfl, rfl⟩ := h
    obtain ⟨r, hr, hcase⟩ := leastKey_defined (leastKey_info hbest) 0 none
    cases hbest.symm.trans hr
    rcases hcase with hnone | ⟨j, key', sl, e, hj, hst⟩
    · cases hnone
    · cases e
      exact State.slotState_eq_some.2 ⟨sl, by simpa using hj, hst⟩
  · injection h with h
    obtain ⟨hk, hst, -⟩ := List.findIdx?_eq_some_iff_getElem.1 h
    exact State.slotState_eq_some.2 ⟨s.slots[k], List.getElem?_eq_getElem hk, by simpa using hst⟩

theorem State.producerHolds_iff {s : State} {k : Nat} :
    s.producerHolds k = true ↔ s.ph = some k ∧ s.slotState k = some .filling := by
  simp [State.producerHolds]

theorem State.consumerHolds_iff {s : State} {k : Nat} :
    s.consumerHolds k = true ↔ s.ch = some k ∧ s.slotState k = some .displaying := by
  simp [State.consumerHolds]

/-- No effect adds or removes a slot. -/
theorem Effect.slots_length {i : Instr} {s u : State} (e : Effect i s u) : u.slots.length = s.slots.length := by
  cases e <;> simp

/-- Each effect that moves a slot into or out of `Filling` or `Displaying` writes the handle with it. -/
theorem Effect.holdersOk {i : Instr} {s u : State} (e : Effect i s u) (h : HoldersOk s) : HoldersOk u := by
  obtain ⟨hlen, hph, hch⟩ := (holdersOk_iff s).1 h
  refine ⟨by rw [e.slots_length, e.cfg, hlen], ?_⟩
  cases e
  case same | poll | discard | drop | short | overflow | band | push => exact ⟨hph, hch⟩
  case claim k _ hp hf =>
    have hk := firstFree_slotState hf
    exact ⟨(hp ▸ hph).enter hk fun _ => rfl, hch.other hk (fun _ => rfl) (by decide) (by decide)⟩
  case fill k d hdr _ _ _ _ _ _ _ =>
    have hst := s.slotState_fill k hdr d
    exact ⟨fun j => hst j ▸ hph j, fun j => hst j ▸ hch j⟩
  case commit k r _ hp _ _ =>
    obtain ⟨hp, hk⟩ := State.producerHolds_iff.1 hp
    exact ⟨(hp ▸ hph).leave hk (fun _ => rfl) (by decide), hch.other hk (fun _ => rfl) (by decide) (by decide)⟩
  case abort k r _ hp _ =>
    obtain ⟨hp, hk⟩ := State.producerHolds_iff.1 hp
    exact ⟨(hp ▸ hph).leave hk (fun _ => rfl) (by decide), hch.other hk (fun _ => rfl) (by decide) (by decide)⟩
  case select k m _ hc hs _ =>
    have hk := selectSlot_slotState hs
    exact ⟨hph.other hk (fun _ => rfl) (by decide) (by decide), (hc ▸ hch).enter hk fun _ => rfl⟩
  case release k _ hc =>
    obtain ⟨hc, hk⟩ := State.consumerHolds_iff.1 hc
    exact ⟨hph.other hk (fun _ => rfl) (by decide) (by decide), (hc ▸ hch).leave hk (fun _ => rfl) (by decide)⟩

theorem holdersOk_kept : KeptByAgents HoldersOk where
  inputs _ _ _ _ _ _ _ _ h := h
  effect e h := e.holdersOk h
  halt _ h := h
  retire _ _ h := h

theorem resetWith_slotState {c : Config} {ok : Bool} {i : Nat} {x : SlotState}
    (h : (State.resetWith c ok).slotState i = some x) : x = .free := by
  obtain ⟨sl, hsl, rfl⟩ := State.slotState_eq_some.1 h
  rw [List.eq_of_mem_replicate (List.mem_of_getElem? hsl)]; rfl

/-- After reset every slot is `Free` and both handles are none. -/
theorem resetWith_holdersOk (c : Config) (ok : Bool) : HoldersOk (State.resetWith c ok) := by
  refine ⟨List.length_replicate, fun i => ⟨fun h => ?_, fun h => ?_⟩, fun i => ⟨fun h => ?_, fun h => ?_⟩⟩
  · cases h
  · cases resetWith_slotState h
  · cases h
  · cases resetWith_slotState h

/-- Settles O55: by `Effect.holdersOk`, no agent but a command's port writing a slot or a handle outside reset. -/
theorem holdersKept : Obligations.HoldersKept :=
  fun s _ h e => holdersOk_kept.step h e fun ok _ _ => resetWith_holdersOk s.cfg ok

end Sys2Proof.Machine
end

section
/-! The state family (10_state), the other parts of `Sound` that do not speak of the ports: the data spaces, the bands the
slots hold, the transfer in flight and the tables (10_state R34 to R38, R45; 20_memory R48). -/

namespace Sys2Proof.Machine

open Sys2Proof.Safety

/-! ## Slots of the pool -/

/-- What holds of every slot holds after one slot is written, if it holds of the slot written. -/
theorem forall_mem_modify {Q : Slot → Prop} {slots : List Slot} {k : Nat} {f : Slot → Slot}
    (h : ∀ sl ∈ slots, Q sl) (hf : ∀ sl, slots[k]? = some sl → Q (f sl)) : ∀ sl ∈ slots.modify k f, Q sl := by
  intro sl hsl
  obtain ⟨j, hj⟩ := List.mem_iff_getElem?.1 hsl
  rw [List.getElem?_modify] at hj
  by_cases hkj : k = j
  · subst hkj
    simp only [if_true, Option.map_eq_map, Option.map_eq_some_iff] at hj
    obtain ⟨x, hx, rfl⟩ := hj
    exact hf x hx
  · simp only [hkj, if_false, Option.map_eq_map, Option.map_id_fun', id_eq] at hj
    exact h sl (List.mem_of_getElem? hj)

/-! ## The data spaces (20_memory R48) -/

/-- A space in canonical form that lists addresses below `n` alone. -/
def Within {α : Type} (m : List (Nat × α)) (n : Nat) : Prop := Sparse.wf m ∧ ∀ kv ∈ m, kv.1 < n

theorem spacesOk_iff (s : State) : SpacesOk s ↔
    (∀ sl ∈ s.slots, Within sl.payload s.cfg.slotBytes.toNat) ∧
      (∀ b, Within (s.obuf.get b) (480 * s.cfg.outRows)) ∧ Within s.panel 57600 := Iff.rfl

theorem Within.nil {α : Type} (n : Nat) : Within ([] : List (Nat × α)) n := ⟨List.Pairwise.nil, by simp⟩

theorem Within.write {α : Type} {m : List (Nat × α)} {n base : Nat} {vs : List α} (h : Within m n)
    (hvs : base + vs.length ≤ n) : Within (Sparse.write m base vs) n := by
  refine ⟨Sparse.wf_write h.1 base vs, fun kv hkv => ?_⟩
  rcases Sparse.mem_write hkv with hold | ⟨-, hnew⟩
  · exact h.2 kv hold
  · omega

theorem Within.erase {α : Type} {m : List (Nat × α)} {n : Nat} (h : Within m n) (base k : Nat) :
    Within (Sparse.erase m base k) n :=
  ⟨Sparse.wf_erase h.1 base k, fun kv hkv => h.2 kv (Sparse.mem_erase hkv)⟩

/-- The bytes of a drawn band: 480 to a row, and no more rows than the buffer has. -/
theorem bandBytes_length {s : State} {m : SlotMeta} {payload : Memory} {pixels : List Half}
    (h : bandPixels s m payload (slotGeom s.cfg m).h = some pixels) (o : ByteOrder) :
    (pixels.flatMap (pixelBytes o)).length = 480 * (slotGeom s.cfg m).h := by
  have hlen := allDefined_length h
  rw [List.length_map, List.length_range] at hlen
  rw [flatMap_pixelBytes_length, hlen]
  ring

theorem slotGeom_rows (c : Config) (m : SlotMeta) : (slotGeom c m).h ≤ 240 ∧ (slotGeom c m).h ≤ c.outRows := by
  obtain ⟨h240, -, hrows, -⟩ := geom_bounds c.outRows m.srcWidth m.srcY0.toNat m.srcLineCount.toNat
  exact ⟨h240, hrows⟩

/-- The row count latched for a drawn band loses no bit. -/
theorem slotGeom_rows_toNat (c : Config) (m : SlotMeta) : (BitVec.ofNat 8 (slotGeom c m).h).toNat = (slotGeom c m).h := by
  have h240 := (slotGeom_rows c m).1
  rw [BitVec.toNat_ofNat]
  omega

theorem Effect.spacesOk {i : Instr} {s u : State} (e : Effect i s u) (h : SpacesOk s) : SpacesOk u := by
  obtain ⟨hslots, hobuf, hpanel⟩ := (spacesOk_iff s).1 h
  cases e
  case same | poll | discard | drop | short | overflow => exact ⟨hslots, hobuf, hpanel⟩
  case claim | commit | abort | select | release =>
    exact ⟨forall_mem_modify hslots fun sl hsl => hslots sl (List.mem_of_getElem? hsl), hobuf, hpanel⟩
  case fill k d hdr _ _ _ _ _ _ hfit =>
    refine ⟨forall_mem_modify hslots fun sl hsl => (hslots sl (List.mem_of_getElem? hsl)).write ?_, hobuf, hpanel⟩
    rw [Nat.zero_add]
    exact (List.length_take_le _ _).trans hfit
  case band m pixels _ _ _ _ _ hpx =>
    refine ⟨hslots, fun b => ?_, hpanel⟩
    by_cases hb : b = !s.abi
    · subst hb
      rw [PerBuf.get_set_self]
      refine (hobuf _).write ?_
      rw [bandBytes_length hpx, Nat.zero_add]
      exact Nat.mul_le_mul_left 480 (slotGeom_rows s.cfg m).2
    · rw [PerBuf.get_set_ne _ hb]; exact hobuf b
  case push => exact ⟨hslots, hobuf, hpanel.erase _ _⟩

theorem spacesOk_kept : KeptByAgents SpacesOk where
  inputs _ _ _ _ _ _ _ _ h := h
  effect e h := e.spacesOk h
  halt _ h := h
  retire {u} _ hpanel hlen h := by
    refine ⟨h.1, h.2.1, Within.write h.2.2 ?_⟩
    rw [hlen]
    omega

theorem resetWith_spacesOk (c : Config) (ok : Bool) : SpacesOk (State.resetWith c ok) := by
  refine ⟨fun sl hsl => ?_, fun b => ?_, Within.nil _⟩
  · rw [List.eq_of_mem_replicate hsl]; exact Within.nil _
  · cases b <;> exact Within.nil _

/-! ## The bands the slots hold (43_pool R124, R125) -/

/-- A slot that is published, or filled and to be published, holds a whole band. -/
def BandOk (c : Config) (sl : Slot) : Prop :=
  sl.state = .ready ∨ sl.state = .displaying ∨ (sl.state = .filling ∧ sl.filled = true) → HoldsBand c sl

theorem bandsOk_iff (s : State) : BandsOk s ↔ ∀ sl ∈ s.slots, BandOk s.cfg sl := Iff.rfl

/-- A filled slot holds the band of its datagram. -/
theorem filledSlot_holdsBand {c : Config} {h : Header} {d : Datagram} (hh : headerOf c.maxLines d = .ok h)
    (hl : h.expected ≤ d.length - 5) (sl : Slot) : HoldsBand c (filledSlot h d sl) := by
  obtain ⟨hpos, hmax, hexp⟩ := headerOf_ok hh
  have hlines : (h.lineCount.setWidth 8).toNat = h.lineCount.toNat := BitVec.toNat_setWidth_of_le (by decide)
  refine ⟨_, rfl, by simpa only [hlines] using hpos, by simpa only [hlines] using hmax, fun k hk => ?_⟩
  simp only [hlines, ← hexp] at hk
  have hlen : ((d.drop 5).take h.expected).length = h.expected := by simp [hl]
  simp only [filledSlot]
  rw [Sparse.read_write_inside (Nat.zero_le k) (by omega), List.getElem?_eq_getElem (by omega)]
  rfl

theorem Effect.bandsOk {i : Instr} {s u : State} (e : Effect i s u) (h : BandsOk s) : BandsOk u := by
  have hold : ∀ {k : Nat} {sl : Slot}, s.slots[k]? = some sl → BandOk s.cfg sl := fun hsl =>
    h _ (List.mem_of_getElem? hsl)
  cases e
  case same | poll | discard | drop | short | overflow | band | push => exact h
  case claim | abort | release => exact forall_mem_modify h fun sl _ hst => by simp at hst
  case fill hh hl _ => exact forall_mem_modify h fun sl _ _ => filledSlot_holdsBand hh hl sl
  case commit hp hf _ =>
    refine forall_mem_modify h fun sl hsl _ => ?_
    obtain ⟨sl', hsl', hst⟩ := State.producerHolds_slot hp
    cases hsl.symm.trans hsl'
    have hband : HoldsBand s.cfg sl := hold hsl (.inr (.inr ⟨hst, by simpa [hsl] using hf⟩))
    exact hband
  case select hs _ =>
    refine forall_mem_modify h fun sl hsl _ => ?_
    obtain ⟨sl', hsl', hst⟩ := State.slotState_eq_some.1 (selectSlot_slotState hs)
    cases hsl.symm.trans hsl'
    have hband : HoldsBand s.cfg sl := hold hsl (.inl hst)
    exact hband

theorem bandsOk_kept : KeptByAgents BandsOk where
  inputs _ _ _ _ _ _ _ _ h := h
  effect e h := e.bandsOk h
  halt _ h := h
  retire _ _ h := h

theorem resetWith_bandsOk (c : Config) (ok : Bool) : BandsOk (State.resetWith c ok) := by
  intro sl hsl hst
  rw [List.eq_of_mem_replicate hsl] at hst
  simp [Slot.reset] at hst

/-! ## The transfer in flight (44_transfer R136, R138; 10_state R38) -/

/-- The rows that `OBUF_ROWS` names for buffer `b` are written. -/
def RowsOk (s : State) (b : Bool) : Prop :=
  (s.obufRows.get b).toNat ≤ s.cfg.outRows ∧
    ∀ k < 480 * (s.obufRows.get b).toNat, (Sparse.read (s.obuf.get b) k).isSome

/-- The descriptor names rows of the active buffer, and rows of the panel to take them. -/
def FlightOk (s : State) : Prop :=
  s.xfDesc.buf = s.abi ∧ 1 ≤ s.xfDesc.h.toNat ∧ s.xfDesc.h.toNat ≤ (s.obufRows.get s.abi).toNat ∧
    s.xfDesc.y.toNat + s.xfDesc.h.toNat ≤ 240

theorem transferOk_iff (s : State) : TransferOk s ↔ (s.xfBusy = true → FlightOk s) ∧ ∀ b, RowsOk s b := Iff.rfl

theorem badRectangle_eq_false {s : State} {y h : Nat} : badRectangle s y h = false ↔
    y ≤ 239 ∧ 1 ≤ h ∧ y + h ≤ 240 ∧ h ≤ s.cfg.outRows ∧ h ≤ (s.obufRows.get (!s.abi)).toNat := by
  simp only [badRectangle, Bool.or_eq_false_iff, decide_eq_false_iff_not]
  omega

theorem Effect.transferOk {i : Instr} {s u : State} (e : Effect i s u) (h : TransferOk s) : TransferOk u := by
  obtain ⟨hflight, hrows⟩ := (transferOk_iff s).1 h
  cases e
  case same | poll | discard | claim | drop | short | fill | commit | abort | select | overflow | release =>
    exact ⟨hflight, hrows⟩
  case band m pixels _ _ _ _ _ hpx =>
    have hbytes := bandBytes_length hpx s.cfg.pixelOrder
    refine ⟨fun hx => ?_, fun b => ?_⟩
    · simp only [PerBuf.get_set_not]; exact hflight hx
    · by_cases hb : b = !s.abi
      · subst hb
        simp only [PerBuf.get_set_self, slotGeom_rows_toNat]
        refine ⟨(slotGeom_rows s.cfg m).2, fun k hk => ?_⟩
        rw [Sparse.read_write_inside (Nat.zero_le k) (by omega), List.getElem?_eq_getElem (by omega)]
        rfl
      · simp only [PerBuf.get_set_ne _ hb]; exact hrows b
  case push y n _ _ hb =>
    obtain ⟨hy, hpos, hpanel, -, hn⟩ := badRectangle_eq_false.1 hb
    refine ⟨fun _ => ⟨rfl, ?_⟩, hrows⟩
    have hy' : (BitVec.ofNat 8 y).toNat = y := by rw [BitVec.toNat_ofNat]; omega
    have hn' : (BitVec.ofNat 8 n).toNat = n := by rw [BitVec.toNat_ofNat]; omega
    rw [hy', hn']
    exact ⟨hpos, hn, hpanel⟩

theorem transferOk_kept : KeptByAgents TransferOk where
  inputs _ _ _ _ _ _ _ _ h := h
  effect e h := e.transferOk h
  halt _ h := h
  retire _ _ h := ⟨fun hx => by simp at hx, h.2⟩

theorem resetWith_transferOk (c : Config) (ok : Bool) : TransferOk (State.resetWith c ok) := by
  refine ⟨fun hx => by simp [State.resetWith] at hx, fun b => ?_⟩
  cases b <;> exact ⟨Nat.zero_le _, fun k hk => absurd hk (Nat.not_lt_zero k)⟩

/-! ## The tables and the configuration (10_state R34 to R36; 00_scope R6) -/

/-- No effect writes a table. -/
theorem Effect.tables {i : Instr} {s u : State} (e : Effect i s u) :
    u.lut = s.lut ∧ u.hmap = s.hmap ∧ u.vmap = s.vmap := by
  cases e <;> exact ⟨rfl, rfl, rfl⟩

theorem tablesOk_kept : KeptByAgents TablesOk where
  inputs _ _ _ _ _ _ _ _ h := h
  effect e h := by
    obtain ⟨hlut, hhmap, hvmap⟩ := e.tables
    rw [TablesOk, e.bstate, e.cfg, hlut, hhmap, hvmap]
    exact h
  halt _ _ := fun hrun => by simp at hrun
  retire _ _ h := h

/-- With `ALLOC_OK` false the tables are not built, and the block is halted (70_reset_and_hazards R177). -/
theorem resetWith_tablesOk (c : Config) (ok : Bool) : TablesOk (State.resetWith c ok) := by
  cases ok
  · exact fun hrun => by simp [State.resetWith] at hrun
  · exact fun _ => ⟨rfl, rfl, rfl⟩

theorem config_kept : KeptByAgents fun s => s.cfg.wellFormed = true where
  inputs _ _ _ _ _ _ _ _ h := h
  effect e h := by rw [e.cfg]; exact h
  halt _ h := h
  retire _ _ h := h

/-- Settles O60: part by part. -/
theorem resetIsSound : Obligations.ResetIsSound := fun c ok hw =>
  { config := hw
    faultRecord := resetWith_faultRecordOk c ok
    spaces := resetWith_spacesOk c ok
    holders := resetWith_holdersOk c ok
    bands := resetWith_bandsOk c ok
    transfer := resetWith_transferOk c ok
    tables := resetWith_tablesOk c ok
    producer := .inl rfl
    consumer := .inl rfl
    host := rfl }

end Sys2Proof.Machine
end

section
/-! The state family (10_state), the ports between micro-steps: what a port in the middle of a composite rests on is
established by its own micro-steps and left alone by every other agent (10_state R21; 44_transfer R140; 45_sequences R145,
R147). With the block's own invariants this is `SoundKept`. -/

namespace Sys2Proof.Machine

open Sys2Proof.Safety

/-! ## Micro-steps that end their command -/

/-- The micro-step ends its command, with a status or a fault. -/
def Micro.Ends : Micro → Prop
  | .next _ _ => False
  | .hold => False
  | _ => True

@[simp] theorem Micro.ends_done (code : Code) (data : Data) (t : State) : (Micro.done code data t).Ends := trivial
@[simp] theorem Micro.ends_raise (c : Cause) : (Micro.raise c).Ends := trivial
@[simp] theorem Micro.ends_stop (f : Fault) : (Micro.stop f).Ends := trivial
@[simp] theorem Micro.not_ends_next (sub : Option Status) (t : State) : ¬ (Micro.next sub t).Ends := id
@[simp] theorem Micro.not_ends_hold : ¬ Micro.hold.Ends := id

theorem Micro.Ends.ne_next {m : Micro} (h : m.Ends) (sub : Option Status) (t : State) : m ≠ .next sub t := by
  rintro rfl; exact h

theorem Micro.Ends.ne_hold {m : Micro} (h : m.Ends) : m ≠ .hold := by
  rintro rfl; exact h

/-- A 'perform' goes on with what the performed command has returned. -/
theorem perform_eq_next {m : Micro} {sub : Option Status} {u : State} (hm : m.Ends) (h : perform m = .next sub u) :
    ∃ code data, m = .done code data u ∧ sub = some ⟨code, data⟩ := by
  cases m <;> simp_all [perform]

theorem perform_ne_hold {m : Micro} (hm : m.Ends) : perform m ≠ .hold := by
  cases m <;> simp_all [perform]

theorem performKeeping_eq_next {m : Micro} {kept sub : Option Status} {u : State} (hm : m.Ends)
    (h : performKeeping kept m = .next sub u) : m.after = some u ∧ sub = kept := by
  cases m <;> simp_all [performKeeping]

theorem performKeeping_ne_hold {m : Micro} (kept : Option Status) (hm : m.Ends) : performKeeping kept m ≠ .hold := by
  cases m <;> simp_all [performKeeping]

theorem hdrDecode_ends (b0 b1 b2 b3 b4 : Byte) (s : State) : (hdrDecode b0 b1 b2 b3 b4 s).Ends := by
  unfold hdrDecode; split <;> simp

theorem lenCheck_ends (flags : Byte) (n : Nat) (s : State) : (lenCheck flags n s).Ends := by
  unfold lenCheck; repeat' split
  all_goals simp

theorem rxPoll_ends (s : State) : (rxPoll s).Ends := by
  unfold rxPoll; split <;> simp

theorem pxcLookup_ends (sample : Byte) (s : State) : (pxcLookup sample s).Ends := by
  unfold pxcLookup; split <;> simp

theorem mapEntry_ends (map : List Byte) (n : Nat) (s : State) : (mapEntry map n s).Ends := by
  unfold mapEntry; repeat' split
  all_goals simp

theorem sclGeom_ends (res : BitVec 2) (lc : BitVec 4) (y : Half) (s : State) : (sclGeom res lc y s).Ends := by
  unfold sclGeom; split <;> simp

theorem sclBand_ends (k : Nat) (s : State) : (sclBand k s).Ends := by
  simp only [sclBand]; repeat' split
  all_goals simp

theorem poolAcquire_ends (s : State) : (poolAcquire s).Ends := by
  unfold poolAcquire; repeat' split
  all_goals simp

theorem poolFill_ends (k : Nat) (s : State) : (poolFill k s).Ends := by
  simp only [poolFill]; repeat' split
  all_goals simp

theorem poolCommit_ends (k : Nat) (s : State) : (poolCommit k s).Ends := by
  unfold poolCommit; split <;> simp

theorem poolAbort_ends (k : Nat) (s : State) : (poolAbort k s).Ends := by
  unfold poolAbort; split <;> simp

theorem poolSelect_ends (s : State) : (poolSelect s).Ends := by
  unfold poolSelect; repeat' split
  all_goals simp

theorem poolRelease_ends (k : Nat) (s : State) : (poolRelease k s).Ends := by
  unfold poolRelease; split <;> simp

theorem xfaPush_ends (y h : Nat) (s : State) : (xfaPush y h s).Ends := by
  unfold xfaPush; repeat' split
  all_goals simp

theorem csrRead_ends (addr : Nat) (s : State) : (csrRead addr s).Ends := by
  unfold csrRead; repeat' split
  all_goals simp

theorem pushDrained_ends (i : Nat) (s : State) : (pushDrained i s).Ends := by
  unfold pushDrained
  split
  · simp
  · next l _ =>
    have hpush := xfaPush_ends l.y.toNat l.h.toNat s
    split
    · split
      · simp
      · exact hpush
    · simp

theorem ingestEnd_ends (s : State) : (ingestEnd s).Ends := by
  unfold ingestEnd
  split
  · next i _ _ _ =>
    have hcommit := poolCommit_ends i s
    split
    · simp
    · simp
    · exact hcommit
  · next i _ _ _ _ _ =>
    have habort := poolAbort_ends i s
    split
    · simp
    · exact habort
  · simp
  · simp

theorem consumeEnd_ends (s : State) : (consumeEnd s).Ends := by
  unfold consumeEnd
  split
  · exact pushDrained_ends _ s
  · simp

theorem onHeldSlot_ends {s : State} {body : Nat → Micro} (h : ∀ i, (body i).Ends) : (onHeldSlot s body).Ends := by
  unfold onHeldSlot
  split
  · simp
  · exact h _

/-- Every command but XFA_WAIT and the composites ends in its one micro-step (10_state R21). -/
theorem bodyOf_ends {i : Instr} (s : State) (hi : i.opcode ∉ [0x50#8, 0x52#8, 0x70#8, 0x71#8]) : (bodyOf i s).Ends := by
  cases i with
  | hdrDecode => exact hdrDecode_ends ..
  | hdrEncode => trivial
  | hdrCheckLen => exact lenCheck_ends ..
  | rxPoll => exact rxPoll_ends s
  | pxcExpand => trivial
  | pxcLookup => exact pxcLookup_ends ..
  | sclHmap => exact mapEntry_ends ..
  | sclVmap => exact mapEntry_ends ..
  | sclGeom => exact sclGeom_ends ..
  | sclBand => exact sclBand_ends ..
  | poolAcquire => exact poolAcquire_ends s
  | poolFill => exact poolFill_ends ..
  | poolCommit => exact poolCommit_ends ..
  | poolAbort => exact poolAbort_ends ..
  | poolSelect => exact poolSelect_ends s
  | poolRelease => exact poolRelease_ends ..
  | xfaPush => exact xfaPush_ends ..
  | csrRead => exact csrRead_ends ..
  | xfaWait | xfaDrain | seqIngest | seqConsume => simp [Instr.opcode] at hi

/-! ## SEQ_INGEST between its micro-steps (45_sequences R145) -/

/-- A fill that answers OK has filled the slot. -/
theorem poolFill_done {k : Nat} {s u : State} {code : Code} {data : Data} (h : poolFill k s = .done code data u) :
    u.ph = s.ph ∧ (code = .ok → (u.slots[k]?).any (·.filled) = true) := by
  unfold poolFill at h
  split at h
  · cases h
  · next hp =>
    simp only [Bool.or_eq_true, Bool.not_eq_true', not_or, Bool.not_eq_false, Bool.not_eq_true] at hp
    obtain ⟨sl, hsl, -⟩ := State.producerHolds_slot hp.1
    split at h
    · cases h
    · split at h
      · cases h; exact ⟨rfl, by simp⟩
      · dsimp only at h
        split at h
        · cases h; exact ⟨rfl, by simp⟩
        · split at h
          · cases h
          · cases h; exact ⟨rfl, fun _ => by simp [hsl, filledSlot]⟩

/-- Each micro-step of SEQ_INGEST establishes what the next one rests on. -/
theorem ingestStep_next {s u : State} {k : Nat} {kept sub : Option Status} (hk : k = 1 ∨ IngestOk s k kept)
    (h : ingestStep s k = .next sub u) : IngestOk u (k + 1) sub := by
  unfold ingestStep at h
  split at h
  · unfold ingestPoll at h
    split at h
    · cases h
    · next hp =>
      split at h
      · cases h
      · cases h; exact ⟨by simpa using hp, rfl⟩
  · obtain ⟨hp, -⟩ : s.ph = none ∧ s.rxd.isSome := hk.resolve_left (by decide)
    unfold ingestCheck at h
    split at h
    · cases h
    · next d hd =>
      split at h
      · cases h
      · next hdr hh => cases h; exact ⟨hp, d, hdr, hd, hh⟩
  · obtain ⟨hp, d, hdr, hd, hh⟩ :
        s.ph = none ∧ ∃ d h, s.rxd = some d ∧ headerOf s.cfg.maxLines d = .ok h := hk.resolve_left (by decide)
    cases hf : firstFree s.slots with
    | none => simp [ingestAcquire, poolAcquire, hp, hf] at h
    | some i =>
      simp only [ingestAcquire, poolAcquire, hp, hf, perform, ne_eq, not_true_eq_false, if_false, Micro.next.injEq] at h
      obtain ⟨-, rfl⟩ := h
      refine ⟨i, d, hdr, rfl, ?_, hd, hh⟩
      cases hsl : s.slots[i]? <;> simp [hsl]
  · obtain ⟨i, d, hdr, hp, -⟩ : ∃ i d h, s.ph = some i ∧ (s.slots[i]?).any (·.filled) = false ∧ s.rxd = some d ∧
        headerOf s.cfg.maxLines d = .ok h := hk.resolve_left (by decide)
    simp only [ingestFill, hp] at h
    obtain ⟨code, data, hdone, rfl⟩ := perform_eq_next (poolFill_ends i s) h
    obtain ⟨hph, hfilled⟩ := poolFill_done hdone
    exact ⟨i, _, hph.trans hp, rfl, hfilled⟩
  · exact absurd h ((ingestEnd_ends s).ne_next sub u)

theorem ingestStep_ne_hold (s : State) (k : Nat) : ingestStep s k ≠ .hold := by
  unfold ingestStep
  split
  · unfold ingestPoll; repeat' split
    all_goals simp
  · unfold ingestCheck; repeat' split
    all_goals simp
  · unfold ingestAcquire
    split
    · simp
    · exact perform_ne_hold (poolAcquire_ends s)
  · unfold ingestFill
    split
    · simp
    · exact perform_ne_hold (poolFill_ends _ s)
  · exact (ingestEnd_ends s).ne_hold

/-! ## The drains between their micro-steps (44_transfer R140; 45_sequences R147) -/

/-- A band that is latched as OK may be pushed from the buffer it was drawn to. -/
theorem slotGeom_pushable (c : Config) (m : SlotMeta) (hv : (slotGeom c m).verdict = .ok) :
    1 ≤ (BitVec.ofNat 8 (slotGeom c m).h).toNat ∧
      (BitVec.ofNat 8 (slotGeom c m).y).toNat + (BitVec.ofNat 8 (slotGeom c m).h).toNat ≤ 240 ∧
      (BitVec.ofNat 8 (slotGeom c m).h).toNat ≤ c.outRows := by
  obtain ⟨-, -, hrows, hok⟩ := geom_bounds c.outRows m.srcWidth m.srcY0.toNat m.srcLineCount.toNat
  obtain ⟨hpos, hpanel⟩ := hok hv
  have hy : (BitVec.ofNat 8 (slotGeom c m).y).toNat = (slotGeom c m).y := by
    rw [BitVec.toNat_ofNat]
    exact Nat.mod_eq_of_lt (by simp only [slotGeom]; omega)
  rw [slotGeom_rows_toNat, hy]
  exact ⟨hpos, hpanel, hrows⟩

/-- SCL_BAND latches a band that may be pushed, or one that is not drawn. -/
theorem sclBand_latchOk {k : Nat} {s u : State} (h : (sclBand k s).after = some u) :
    u.ch = s.ch ∧ u.xfBusy = s.xfBusy ∧ LatchOk u := by
  unfold sclBand at h
  split at h
  · simp at h
  · split at h
    · simp at h
    · split at h
      · simp at h
      · next m _ =>
        dsimp only at h
        split at h
        · simp at h; subst h
          exact ⟨rfl, rfl, _, rfl, fun hv => by simp at hv⟩
        · split at h
          · simp at h
          · simp at h; subst h
            refine ⟨rfl, rfl, _, rfl, fun hv => ?_⟩
            obtain ⟨hpos, hpanel, hrows⟩ := slotGeom_pushable s.cfg m hv
            exact ⟨hpos, hpanel, hrows, by simp⟩

theorem poolRelease_eq {k : Nat} {s u : State} (h : (poolRelease k s).after = some u) :
    u = { s.updateSlot k (fun sl => { sl with state := .free }) with ch := none } := by
  unfold poolRelease at h
  split at h <;> simp at h
  exact h.symm

theorem drainOk_band {s u : State} {i : Nat} (hd : DrainOk s i 3)
    (h : (sclBand i s).after = some u) : DrainOk u i 4 := by
  obtain ⟨hi, hidle⟩ := hd
  obtain ⟨hch, hx, hlatch⟩ := sclBand_latchOk h
  exact ⟨hch.trans hi, hx.trans hidle, hlatch⟩

theorem drainOk_release {s u : State} {i : Nat} (hd : DrainOk s i 4)
    (h : (poolRelease i s).after = some u) : DrainOk u i 5 := by
  obtain ⟨-, hidle, hlatch⟩ := hd
  rw [poolRelease_eq h]
  exact ⟨hidle, hlatch⟩

/-- Each micro-step of XFA_DRAIN establishes what the next one rests on. -/
theorem drainStep_next {s u : State} {i k : Nat} {sub : Option Status} (hk : k = 1 ∨ DrainOk s i k)
    (h : drainStep i s k = .next sub u) : DrainOk u i (k + 1) := by
  have hafter : (drainStep i s k).after = some u := by rw [h]; rfl
  unfold drainStep at h hafter
  split at h
  · split at h
    · next hc => cases h; exact (State.consumerHolds_iff.1 hc).1
    · cases h
  · split at h
    · cases h
    · next hx => cases h; exact ⟨hk.resolve_left (by decide), by simpa using hx⟩
  · exact drainOk_band (hk.resolve_left (by decide)) (by simpa using hafter)
  · exact drainOk_release (hk.resolve_left (by decide)) (by simpa using hafter)
  · exact absurd h ((pushDrained_ends i s).ne_next sub u)

theorem drainStep_hold {s : State} {i k : Nat} (h : drainStep i s k = .hold) : k = 2 := by
  unfold drainStep at h
  split at h
  · split at h <;> cases h
  · rfl
  · exact absurd h (perform_ne_hold (sclBand_ends i s))
  · exact absurd h (perform_ne_hold (poolRelease_ends i s))
  · exact absurd h (pushDrained_ends i s).ne_hold

/-- A selection that goes on has claimed the slot it reports. -/
theorem consumeSelect_next {s u : State} {sub : Option Status} (h : consumeSelect s = .next sub u) :
    ∃ code i fid y, sub = some ⟨code, .band i fid y⟩ ∧ u.ch = some i := by
  unfold consumeSelect at h
  split at h
  · cases h
  · next hne =>
    obtain ⟨code, data, hdone, rfl⟩ := perform_eq_next (poolSelect_ends s) h
    unfold poolSelect at hdone
    split at hdone
    · cases hdone
    · split at hdone
      · cases hdone
      · next hnone => exact absurd (by simp_all [poolSelect]) (hne .none s)
      · split at hdone
        · cases hdone
        · cases hdone; exact ⟨_, _, _, _, rfl, rfl⟩

/-- What holds of a SEQ_CONSUME at micro-step `k`: its band is kept, and the drain of that slot is at `k`. -/
def ConsumeOk (s : State) (k : Nat) (sub : Option Status) : Prop :=
  ∃ code i fid y, sub = some ⟨code, .band i fid y⟩ ∧ DrainOk s i k

/-- Each micro-step of SEQ_CONSUME establishes what the next one rests on. -/
theorem consumeStep_next {s u : State} {k : Nat} {sub : Option Status} (hk : k = 1 ∨ ConsumeOk s k s.portState.sub)
    (h : consumeStep s k = .next sub u) : ConsumeOk u (k + 1) sub := by
  unfold consumeStep at h
  split at h
  · exact consumeSelect_next h
  · split at h
    · cases h
    · next hx =>
      obtain ⟨code, i, fid, y, hsub, hch⟩ := hk.resolve_left (by decide)
      cases h; exact ⟨code, i, fid, y, hsub, hch, by simpa using hx⟩
  · obtain ⟨code, i, fid, y, hsub, hok⟩ := hk.resolve_left (by decide)
    obtain ⟨hafter, rfl⟩ := performKeeping_eq_next (onHeldSlot_ends fun i => sclBand_ends i s) h
    rw [onHeldSlot, show s.ch = some i from hok.1] at hafter
    exact ⟨code, i, fid, y, hsub, drainOk_band hok hafter⟩
  · obtain ⟨code, i, fid, y, hsub, hok⟩ := hk.resolve_left (by decide)
    obtain ⟨hafter, rfl⟩ := performKeeping_eq_next (onHeldSlot_ends fun i => poolRelease_ends i s) h
    rw [onHeldSlot, show s.ch = some i from hok.1] at hafter
    exact ⟨code, i, fid, y, hsub, drainOk_release hok hafter⟩
  · exact absurd h ((consumeEnd_ends s).ne_next sub u)

theorem consumeStep_hold {s : State} {k : Nat} (h : consumeStep s k = .hold) : k = 2 := by
  unfold consumeStep at h
  split at h
  · unfold consumeSelect at h
    split at h
    · cases h
    · exact absurd h (perform_ne_hold (poolSelect_ends s))
  · rfl
  · exact absurd h (performKeeping_ne_hold _ (onHeldSlot_ends fun i => sclBand_ends i s))
  · exact absurd h (performKeeping_ne_hold _ (onHeldSlot_ends fun i => poolRelease_ends i s))
  · exact absurd h (consumeEnd_ends s).ne_hold

/-! ## What the other agents leave alone -/

/-- A command that may be issued on the PRODUCER's port leaves alone what a drain rests on (43_pool R122). -/
theorem Effect.consumerSide {i : Instr} {s u : State} (e : Effect i s u) (hi : allowedOn i .producer = true) :
    u.ch = s.ch ∧ u.xfBusy = s.xfBusy ∧ u.clatch = s.clatch ∧ u.abi = s.abi ∧ u.obufRows = s.obufRows := by
  cases e
  case same | poll | discard | claim | drop | short | fill | commit | abort => exact ⟨rfl, rfl, rfl, rfl, rfl⟩
  case select h _ _ _ => rcases h with rfl | rfl <;> simp [allowedOn] at hi
  case overflow h _ | band h _ _ _ _ _ | release h _ =>
    rcases h with rfl | ⟨_, rfl⟩ | ⟨_, rfl⟩ <;> simp [allowedOn] at hi
  case push h _ _ => rcases h with rfl | ⟨_, _, rfl⟩ | ⟨_, rfl⟩ <;> simp [allowedOn] at hi

/-- A command that may be issued on the CONSUMER's port leaves alone what a SEQ_INGEST rests on (43_pool R122). -/
theorem Effect.producerSide {i : Instr} {s u : State} (e : Effect i s u) (hi : allowedOn i .consumer = true) :
    u.ph = s.ph ∧ u.rxd = s.rxd ∧ ∀ k : Nat, (u.slots[k]?).any (·.filled) = (s.slots[k]?).any (·.filled) := by
  cases e
  case same | overflow | band | push => exact ⟨rfl, rfl, fun _ => rfl⟩
  case select | release =>
    refine ⟨rfl, rfl, fun k => ?_⟩
    simp only [State.updateSlot_slots, List.getElem?_modify]
    split <;> cases s.slots[k]? <;> rfl
  case discard h => subst h; simp [allowedOn] at hi
  case poll h _ | claim h _ _ | drop h _ _ _ => rcases h with rfl | rfl <;> simp [allowedOn] at hi
  case short h | fill h _ _ _ _ _ _ | commit h _ _ _ | abort h _ _ =>
    rcases h with rfl | ⟨_, rfl⟩ <;> simp [allowedOn] at hi

/-- A command that the HOST may issue, any port may (30_encoding R83). -/
theorem allowedOn_of_host {i : Instr} (h : allowedOn i .host = true) (p : Port) : allowedOn i p = true := by
  cases i <;> simp_all [allowedOn]

theorem allowedOn_consumer {i : Instr} {q : Port} (hq : allowedOn i q = true) (h : q ≠ .producer) :
    allowedOn i .consumer = true := by
  cases q with
  | producer => exact absurd rfl h
  | consumer => exact hq
  | host => exact allowedOn_of_host hq _

theorem allowedOn_producer {i : Instr} {q : Port} (hq : allowedOn i q = true) (h : q ≠ .consumer) :
    allowedOn i .producer = true := by
  cases q with
  | producer => exact hq
  | consumer => exact absurd rfl h
  | host => exact allowedOn_of_host hq _

theorem ingestOk_congr {s u : State} {k : Nat} {sub : Option Status} (hcfg : u.cfg = s.cfg) (hph : u.ph = s.ph)
    (hrxd : u.rxd = s.rxd) (hfilled : ∀ i : Nat, (u.slots[i]?).any (·.filled) = (s.slots[i]?).any (·.filled))
    (h : IngestOk s k sub) : IngestOk u k sub := by
  unfold IngestOk at h ⊢
  simp only [hcfg, hph, hrxd, hfilled]
  exact h

theorem drainOk_mono {s u : State} {i k : Nat} (hch : u.ch = s.ch) (hx : s.xfBusy = false → u.xfBusy = false)
    (hlatch : LatchOk s → LatchOk u) (h : DrainOk s i k) : DrainOk u i k := by
  unfold DrainOk at h
  split at h
  · exact hch.trans h
  · obtain ⟨hi, hidle⟩ := h
    exact ⟨hch.trans hi, hx hidle⟩
  · obtain ⟨hi, hidle, hl⟩ := h
    exact ⟨hch.trans hi, hx hidle, hlatch hl⟩
  · obtain ⟨hidle, hl⟩ := h
    exact ⟨hx hidle, hlatch hl⟩
  · exact h.elim

/-! ## The ports -/

/-- `ps` is what port `p` may be at between micro-steps (10_state R21). -/
def PortStateOk (s : State) (p : Port) (ps : PortState) : Prop :=
  match p with
  | .producer => ps = .idle ∨ (ps.cmd = some .seqIngest ∧ IngestOk s ps.step ps.sub)
  | .consumer => ps = .idle ∨ (ps.cmd = some .xfaWait ∧ ps.step = 1) ∨
      (∃ slot, ps.cmd = some (.xfaDrain slot) ∧ DrainOk s slot.toNat ps.step) ∨
      (ps.cmd = some .seqConsume ∧ ConsumeOk s ps.step ps.sub)
  | .host => ps = .idle

/-- Every port is at what it may be at. -/
def PortsOk (s : State) : Prop := ∀ p, PortStateOk s p (s.port.get p)

theorem portsOk_iff (s : State) : PortsOk s ↔ ProducerOk s ∧ ConsumerOk s ∧ HostOk s := by
  refine ⟨fun h => ⟨h .producer, h .consumer, h .host⟩, fun ⟨hproducer, hconsumer, hhost⟩ p => ?_⟩
  cases p
  · exact hproducer
  · exact hconsumer
  · exact hhost

theorem portsOk_of_sound {s : State} (hs : Sound s) : PortsOk s :=
  (portsOk_iff s).2 ⟨hs.producer, hs.consumer, hs.host⟩

theorem portStateOk_idle (s : State) (p : Port) : PortStateOk s p .idle := by
  cases p
  · exact .inl rfl
  · exact .inl rfl
  · rfl

/-- A drain's progress carries over to a state that has the same handle, no transfer where there was none, and a latch as
good. -/
theorem PortStateOk.consumer_mono {s u : State} {ps : PortState} (hch : u.ch = s.ch)
    (hx : s.xfBusy = false → u.xfBusy = false) (hlatch : LatchOk s → LatchOk u) (h : PortStateOk s .consumer ps) :
    PortStateOk u .consumer ps := by
  rcases h with h | h | ⟨slot, hcmd, hok⟩ | ⟨hcmd, code, i, fid, y, hsub, hok⟩
  · exact .inl h
  · exact .inr (.inl h)
  · exact .inr (.inr (.inl ⟨slot, hcmd, drainOk_mono hch hx hlatch hok⟩))
  · exact .inr (.inr (.inr ⟨hcmd, code, i, fid, y, hsub, drainOk_mono hch hx hlatch hok⟩))

/-- What one port's progress rests on, no command of another port writes. -/
theorem Effect.otherPort {i : Instr} {s u : State} {p q : Port} {ps : PortState} (e : Effect i s u)
    (hq : allowedOn i q = true) (hpq : p ≠ q) (h : PortStateOk s p ps) : PortStateOk u p ps := by
  cases p with
  | producer =>
    obtain ⟨hph, hrxd, hfilled⟩ := e.producerSide (allowedOn_consumer hq hpq.symm)
    exact h.imp id fun ⟨hcmd, hok⟩ => ⟨hcmd, ingestOk_congr e.cfg hph hrxd hfilled hok⟩
  | consumer =>
    obtain ⟨hch, hx, hclatch, habi, hrows⟩ := e.consumerSide (allowedOn_producer hq hpq.symm)
    exact PortStateOk.consumer_mono hch hx.trans (by rw [LatchOk, LatchOk, hclatch, habi, hrows, e.cfg]; exact id) h
  | host => exact h

/-! ## The port whose command moves -/

/-- A port of a sound state has only commands in progress that it may issue. -/
theorem allowedOn_of_inProgress {s : State} (hs : Sound s) {p : Port} {i : Instr} (h : (s.port.get p).cmd = some i) :
    allowedOn i p = true := by
  cases p with
  | producer =>
    rcases portsOk_of_sound hs .producer with e | ⟨e, -⟩
    · simp [e, PortState.idle] at h
    · cases e.symm.trans h; rfl
  | consumer =>
    rcases portsOk_of_sound hs .consumer with e | ⟨e, -⟩ | ⟨slot, e, -⟩ | ⟨e, -⟩
    · simp [e, PortState.idle] at h
    · cases e.symm.trans h; rfl
    · cases e.symm.trans h; rfl
    · cases e.symm.trans h; rfl
  | host =>
    have e : s.port.get .host = .idle := portsOk_of_sound hs .host
    simp [e, PortState.idle] at h

theorem stepOf_eq_one_or (i : Instr) (s : State) : stepOf i s = 1 ∨ stepOf i s = s.microStep := by
  cases i <;> simp [stepOf]

/-- A command past the preamble runs on a port that may issue it; in a later micro-step, because it is in progress
there. -/
theorem MayRun.allowedOn {i : Instr} {s : State} (hp : MayRun i s) (hs : Sound s)
    (h : stepOf i s = 1 → allowedOn i s.issuer = true) : allowedOn i s.issuer = true := by
  by_cases hk : stepOf i s = 1
  · exact h hk
  · have hfirst := s.one_le_microStep
    have hstep := (stepOf_eq_one_or i s).resolve_left hk
    have hlater : 2 ≤ s.microStep := by omega
    exact allowedOn_of_inProgress hs (hp.inProgress hlater).1

/-- A command is at its first micro-step, or is in progress at the step of its port. -/
theorem MayRun.first_or_inProgress {i : Instr} {s : State} (hp : MayRun i s) :
    s.microStep = 1 ∨ (s.portState.cmd = some i ∧ s.microStep = s.portState.step) := by
  have := s.one_le_microStep
  by_cases hk : s.microStep = 1
  · exact .inl hk
  · exact .inr (hp.inProgress (by omega))

theorem MayRun.ingestOk {s : State} (hp : MayRun .seqIngest s) (hs : Sound s) :
    s.microStep = 1 ∨ IngestOk s s.microStep s.portState.sub :=
  hp.first_or_inProgress.imp id fun ⟨hcmd, hstep⟩ => hstep ▸ hs.ingestOk hcmd

theorem MayRun.drainOk {s : State} {slot : BitVec 8} (hp : MayRun (.xfaDrain slot) s) (hs : Sound s) :
    s.microStep = 1 ∨ DrainOk s slot.toNat s.microStep :=
  hp.first_or_inProgress.imp id fun ⟨hcmd, hstep⟩ => hstep ▸ hs.drainOk hcmd

theorem MayRun.consumeOk {s : State} (hp : MayRun .seqConsume s) (hs : Sound s) :
    s.microStep = 1 ∨ ConsumeOk s s.microStep s.portState.sub :=
  hp.first_or_inProgress.imp id fun ⟨hcmd, hstep⟩ => hstep ▸ hs.consumeOk hcmd

theorem issuer_of_producerOnly {i : Instr} {p : Port} (h : allowedOn i p = true) (hc : allowedOn i .consumer = false) :
    p = .producer := by
  by_contra hne
  simp [allowedOn_consumer h hne] at hc

theorem issuer_of_consumerOnly {i : Instr} {p : Port} (h : allowedOn i p = true) (hp : allowedOn i .producer = false) :
    p = .consumer := by
  by_contra hne
  simp [allowedOn_producer h hne] at hp

/-- A micro-step that is followed by another leaves its port at what it may be at. -/
theorem bodyOf_next_portStateOk {i : Instr} {s u : State} {sub : Option Status} (hs : Sound s) (hp : MayRun i s)
    (hallowed : allowedOn i s.issuer = true) (h : bodyOf i s = .next sub u) :
    PortStateOk u s.issuer { cmd := some i, step := stepOf i s + 1, sub := sub } := by
  by_cases hi : i.opcode ∉ [0x50#8, 0x52#8, 0x70#8, 0x71#8]
  · exact absurd h ((bodyOf_ends s hi).ne_next sub u)
  · cases i <;> simp [Instr.opcode] at hi
    case xfaWait =>
      simp only [bodyOf, xfaWait] at h
      split at h <;> cases h
    case xfaDrain slot =>
      rw [issuer_of_consumerOnly hallowed rfl]
      exact .inr (.inr (.inl ⟨slot, rfl, drainStep_next (hp.drainOk hs) h⟩))
    case seqIngest =>
      rw [issuer_of_producerOnly hallowed rfl]
      exact .inr ⟨rfl, ingestStep_next (hp.ingestOk hs) h⟩
    case seqConsume =>
      rw [issuer_of_consumerOnly hallowed rfl]
      exact .inr (.inr (.inr ⟨rfl, consumeStep_next (hp.consumeOk hs) h⟩))

/-- A micro-step that holds leaves its port at what it may be at (00_scope R11). -/
theorem bodyOf_hold_portStateOk {i : Instr} {s : State} (hs : Sound s) (hp : MayRun i s) (hallowed : allowedOn i s.issuer = true)
    (h : bodyOf i s = .hold) :
    PortStateOk s s.issuer { cmd := some i, step := stepOf i s, sub := s.portState.sub } := by
  by_cases hi : i.opcode ∉ [0x50#8, 0x52#8, 0x70#8, 0x71#8]
  · exact absurd h (bodyOf_ends s hi).ne_hold
  · cases i <;> simp [Instr.opcode] at hi
    case xfaWait =>
      rw [issuer_of_consumerOnly hallowed rfl]
      exact .inr (.inl ⟨rfl, rfl⟩)
    case xfaDrain slot =>
      have hk : s.microStep = 2 := drainStep_hold h
      rw [issuer_of_consumerOnly hallowed rfl]
      exact .inr (.inr (.inl ⟨slot, rfl, (hp.drainOk hs).resolve_left (by omega)⟩))
    case seqIngest => exact absurd h (ingestStep_ne_hold s _)
    case seqConsume =>
      have hk : s.microStep = 2 := consumeStep_hold h
      rw [issuer_of_consumerOnly hallowed rfl]
      exact .inr (.inr (.inr ⟨rfl, (hp.consumeOk hs).resolve_left (by omega)⟩))

/-! ## Every turn -/

theorem portsOk_set {s u : State} {p : Port} {ps : PortState} (hother : ∀ q, q ≠ p → PortStateOk u q (s.port.get q))
    (hown : PortStateOk u p ps) (q : Port) : PortStateOk u q ((s.port.set p ps).get q) := by
  by_cases hq : q = p
  · subst hq; rw [PerPort.get_set_self]; exact hown
  · rw [PerPort.get_set_ne _ hq]; exact hother q hq

/-- No effect writes a port. -/
theorem Effect.port {i : Instr} {s u : State} (e : Effect i s u) : u.port = s.port ∧ u.issuer = s.issuer := by
  cases e <;> exact ⟨rfl, rfl⟩

theorem State.finish_portsOk {s : State} (h : PortsOk s) (code : Code) (data : Data) : PortsOk (s.finish code data) :=
  portsOk_set (s := s) (u := s) (fun q _ => h q) (portStateOk_idle s s.issuer)

theorem State.faultEntry_portsOk {s : State} (h : PortsOk s) (c : Cause) : PortsOk (s.faultEntry c) :=
  portsOk_set (s := s) (u := s) (fun q _ => h q) (portStateOk_idle s s.issuer)

/-- A micro-step's effect leaves every port but its own at what it may be at. -/
theorem Effect.otherPorts {i : Instr} {s u : State} (e : Effect i s u) (hs : Sound s)
    (hallowed : Machine.allowedOn i s.issuer = true) : ∀ q, q ≠ u.issuer → PortStateOk u q (u.port.get q) := by
  obtain ⟨hport, hissuer⟩ := e.port
  intro q hq
  rw [hport]
  exact e.otherPort hallowed (hissuer ▸ hq) (portsOk_of_sound hs q)

theorem exec_portsOk {i : Instr} {s t : State} (hs : Sound s) (hp : MayRun i s) (h : exec i s = .next t) :
    PortsOk t := by
  have hports := portsOk_of_sound hs
  rcases exec_cases h with ⟨-, e⟩ | ⟨-, -, -, e⟩ | ⟨-, -, -, e⟩ | ⟨-, hpass, e⟩
  · cases e; exact State.finish_portsOk hports _ _
  · cases e; exact State.faultEntry_portsOk hports _
  · cases e; exact State.faultEntry_portsOk hports _
  · have hallowed := hp.allowedOn hs fun hk => (hpass hk).1
    rcases settle_cases e.symm with ⟨code, data, u, hm, rfl⟩ | ⟨sub, u, hm, rfl⟩ | ⟨hm, rfl⟩ | ⟨c, -, rfl⟩
    · have hu : Effect i s u := bodyOf_after (by rw [hm]; rfl)
      exact portsOk_set (s := u) (u := u) (hu.otherPorts hs hallowed) (portStateOk_idle u u.issuer)
    · have hu : Effect i s u := bodyOf_after (by rw [hm]; rfl)
      refine portsOk_set (s := u) (u := u) (hu.otherPorts hs hallowed) ?_
      rw [hu.port.2]
      exact bodyOf_next_portStateOk hs hp hallowed hm
    · exact portsOk_set (s := s) (u := s) (fun q _ => hports q) (bodyOf_hold_portStateOk hs hp hallowed hm)
    · exact State.faultEntry_portsOk hports c

theorem portTurn_portsOk {s t : State} {p : Port} (hs : Sound s) (h : portTurn exec p s = .next t) : PortsOk t := by
  have taken : ∀ q, Sound { s with issuer := p, cmdq := q } := fun q => hs.of_inputs p s.turns q
  rcases portTurn_cases h with rfl | ⟨q, -, rfl⟩ | ⟨q, -, rfl⟩ | ⟨i, hi, e⟩ | ⟨q, i, hidle, e⟩
  · exact portsOk_of_sound (taken s.cmdq)
  · exact State.finish_portsOk (portsOk_of_sound (taken q)) _ _
  · exact State.faultEntry_portsOk (portsOk_of_sound (taken q)) _
  · exact exec_portsOk (taken s.cmdq) (.inr hi) e
  · exact exec_portsOk (taken q) (.inl (hs.port_idle hidle)) e

/-- The retire of a transfer ends what a drain waits for. -/
theorem engineRetire_portsOk {s t : State} (h : PortsOk s) (e : engineRetire s = .next t) : PortsOk t := by
  rcases engineRetire_cases e with ⟨-, rfl⟩ | ⟨-, -, rfl⟩ | ⟨pixels, -, -, -, -, rfl⟩
  · exact h
  · exact h
  · intro p
    cases p with
    | producer => exact h .producer
    | consumer => exact PortStateOk.consumer_mono (s := s) rfl (fun _ => rfl) id (h .consumer)
    | host => exact h .host

theorem transportStep_portsOk {s : State} (h : PortsOk s) : PortsOk (transportStep s) := by
  unfold transportStep
  split <;> exact h

theorem again_portsOk (s : State) (ok : Bool) : PortsOk (s.again ok) := by
  intro p
  rw [show (s.again ok).port.get p = .idle from PerPort.get_all _ p]
  exact portStateOk_idle _ p

theorem step_portsOk {s t : State} (hs : Sound s) (e : step s = .next t) : PortsOk t := by
  obtain ⟨-, ⟨-, rfl⟩ | ⟨turn, rest, -, hmove⟩⟩ := step_cases e
  · exact portsOk_of_sound hs
  · have spent : Sound { s with turns := rest } := hs.of_inputs s.issuer rest s.cmdq
    rcases hmove with ⟨p, -, e⟩ | ⟨-, e⟩ | ⟨-, rfl⟩ | ⟨ok, -, rfl⟩
    · exact portTurn_portsOk spent e
    · exact engineRetire_portsOk (portsOk_of_sound spent) e
    · exact transportStep_portsOk (portsOk_of_sound spent)
    · exact again_portsOk _ ok

/-- Settles O56: the block's own invariants part by part, the ports by `step_portsOk`. -/
theorem soundKept : Obligations.SoundKept := by
  intro s t hs e
  obtain ⟨hproducer, hconsumer, hhost⟩ := (portsOk_iff t).1 (step_portsOk hs e)
  exact
    { config := config_kept.step hs.config e fun _ _ _ => hs.config
      faultRecord := faultRecordOk_kept.step hs.faultRecord e fun ok _ _ => resetWith_faultRecordOk s.cfg ok
      spaces := spacesOk_kept.step hs.spaces e fun ok _ _ => resetWith_spacesOk s.cfg ok
      holders := holdersOk_kept.step hs.holders e fun ok _ _ => resetWith_holdersOk s.cfg ok
      bands := bandsOk_kept.step hs.bands e fun ok _ _ => resetWith_bandsOk s.cfg ok
      transfer := transferOk_kept.step hs.transfer e fun ok _ _ => resetWith_transferOk s.cfg ok
      tables := tablesOk_kept.step hs.tables e fun ok _ _ => resetWith_tablesOk s.cfg ok
      producer := hproducer
      consumer := hconsumer
      host := hhost }

end Sys2Proof.Machine
end

section
/-! The state family (10_state), commands and registers: a step runs or resumes a command (R21), the counters (R27 to R29),
CSR_READ (R42; 45_sequences R149) and the bits of STATUS (R43). -/

namespace Sys2Proof.Machine

open Sys2Proof.Laws

/-! ## Decoding the head of a queue (30_encoding R74) -/

theorem whenZero_ok {n : Nat} {w0 : Word} {mbz : BitVec n} {i j : Instr} (h : whenZero w0 mbz i = .ok j) : j = i := by
  unfold whenZero at h
  split at h <;> cases h
  rfl

theorem decodeTwo_opcode {w0 w1 : Word} {i : Instr} (hlen : commandLength w0 = 2) (h : decodeTwo w0 w1 = .ok i) :
    i.opcode = opcodeOf w0 := by
  rw [whenZero_ok h]
  split
  · next h10 => exact h10.symm
  · next h10 =>
    by_contra hne
    have : ¬ (opcodeOf w0 = 0x10#8 ∨ opcodeOf w0 = 0x11#8) := fun h => h.elim h10 fun h11 => hne h11.symm
    simp [commandLength, this] at hlen

theorem decodeOne_opcode {w0 : Word} {i : Instr} (h : decodeOne w0 = .ok i) : i.opcode = opcodeOf w0 := by
  apply BitVec.eq_of_toNat_eq
  unfold decodeOne at h
  split at h
  case h_21 => cases h
  case h_1 hop | h_16 hop => cases h; exact hop.symm
  all_goals
    rename_i hop
    rw [hop, whenZero_ok h]
    rfl

/-- A command that decodes has been delivered whole, carries its opcode, and takes the words of its length. -/
theorem decode_ok {ws rest : List Word} {i : Instr} (h : decode ws = .ok (i, rest)) :
    ∃ w0 more, ws = w0 :: more ∧ commandLength w0 ≤ more.length + 1 ∧ i.opcode = opcodeOf w0 ∧
      rest = ws.drop (commandLength w0) := by
  unfold decode at h
  split at h
  · cases h
  · next w0 more =>
    refine ⟨w0, more, rfl, ?_⟩
    split at h
    · next hlen =>
      split at h
      · cases h
      · next w1 more =>
        cases hd : decodeTwo w0 w1 with
        | error e => rw [hd] at h; cases h
        | ok j =>
          rw [hd] at h; cases h
          exact ⟨by simp [hlen], decodeTwo_opcode hlen hd, by simp [hlen]⟩
    · next hlen =>
      have hlen : commandLength w0 = 1 := by
        unfold commandLength at hlen ⊢
        split at hlen
        · exact absurd rfl hlen
        · next hop => rw [if_neg hop]
      cases hd : decodeOne w0 with
      | error e => rw [hd] at h; cases h
      | ok j =>
        rw [hd] at h; cases h
        exact ⟨by simp [hlen], decodeOne_opcode hd, by simp [hlen]⟩

/-! ## A step runs or resumes a command (10_state R21) -/

/-- A command that is turned away ends with HALTED, whatever micro-step it is at (60_exceptions R157). -/
theorem exec_of_turnedAway {i : Instr} {s : State} (h : turnedAway i s = true) :
    exec i s = .next (s.finish .halted .none) := by
  rw [exec_eq, preamble_halted h, if_pos h, ite_self]

/-- An idle port takes the command its delivered words decode to. -/
theorem acceptCommand_of_decode {s : State} {i : Instr} {rest : List Word}
    (h : decode (s.cmdq.get s.issuer) = .ok (i, rest)) :
    acceptCommand exec s = exec i { s with cmdq := s.cmdq.set s.issuer rest } := by
  obtain ⟨w0, more, hq, hwhole, hop, hrest⟩ := decode_ok h
  rw [hq] at h hrest
  simp only [acceptCommand, hq, Nat.not_lt.2 hwhole, if_false, ← hrest, h]
  split
  · next haway => rw [exec_of_turnedAway (by rw [turnedAway, hop]; exact haway)]
  · rfl

/-- Settles O6: an idle port's turn is `acceptCommand`. -/
theorem stepRunsDecodedCommand : Obligations.StepRunsDecodedCommand := by
  intro s p turns i rest hw ht hidle hd
  rw [step_of_turn hw ht]
  simp only [moveAgent, portTurn, hidle, PortState.idle]
  exact acceptCommand_of_decode hd

/-- Settles O7: a port's turn looks at its queue only when no command is in progress. -/
theorem stepResumesCommand : Obligations.StepResumesCommand := by
  intro s p turns i hw ht hcmd
  rw [step_of_turn hw ht]
  simp only [moveAgent, portTurn, hcmd]

/-! ## The counters (10_state R27 to R29) -/

/-- CNT_DROP moves by one or not at all, and where it moves the micro-step ends with EXHAUSTED. -/
def DropCounted (s : State) (m : Micro) : Prop :=
  ∀ u, m.after = some u → u.cntDrop = s.cntDrop ∨
    (u.cntDrop = s.cntDrop + 1#32 ∧ m = .done .exhausted .none u)

theorem poolAcquire_dropCounted (s : State) : DropCounted s (poolAcquire s) := by
  intro u h
  unfold poolAcquire at h ⊢
  split at h
  · simp at h
  · next hp =>
    split at h
    · simp at h; subst h; exact .inl rfl
    · simp at h; subst h; exact .inr ⟨rfl, if_neg hp⟩

/-- Of all the effects, only `drop` writes CNT_DROP. -/
theorem Effect.cntDrop {i : Instr} {s u : State} (e : Effect i s u) (hi : i.opcode ∉ [0x40#8, 0x70#8]) :
    u.cntDrop = s.cntDrop := by
  cases e
  case drop h _ _ _ => rcases h with rfl | rfl <;> simp [Instr.opcode] at hi
  all_goals rfl

theorem ingestEnd_cntDrop {s u : State} (h : (ingestEnd s).after = some u) : u.cntDrop = s.cntDrop := by
  unfold ingestEnd at h
  split at h
  · next k _ _ _ =>
    split at h
    · next e =>
      obtain ⟨-, -, rfl⟩ := poolCommit_after (k := k) (s := s) (by rw [e]; rfl)
      simp at h; subst h; rfl
    · simp at h
    · obtain ⟨-, -, rfl⟩ := poolCommit_after h
      rfl
  · next k _ _ _ _ _ =>
    split at h
    · next e =>
      obtain ⟨-, rfl⟩ := poolAbort_after (k := k) (s := s) (by rw [e]; rfl)
      simp at h; subst h; rfl
    · obtain ⟨-, rfl⟩ := poolAbort_after h
      rfl
  · simp at h
  · simp at h

theorem ingestStep_dropCounted (s : State) (k : Nat) : DropCounted s (ingestStep s k) := by
  intro u h
  unfold ingestStep at h ⊢
  split at h
  · unfold ingestPoll at h
    split at h
    · simp at h
    · split at h <;> simp at h <;> subst h <;> exact .inl rfl
  · unfold ingestCheck at h
    split at h
    · simp at h
    · split at h <;> simp at h <;> subst h <;> exact .inl rfl
  · have hacquire := poolAcquire_dropCounted s
    unfold ingestAcquire at h ⊢
    split at h
    · next t e =>
      simp at h; subst h
      refine (hacquire t (by rw [e]; rfl)).imp id fun ⟨hcnt, _⟩ => ⟨hcnt, rfl⟩
    · next hne =>
      simp only [perform_after] at h
      exact .inl ((hacquire u h).resolve_right fun ⟨_, e⟩ => hne _ _ e)
  · unfold ingestFill at h
    split at h
    · simp at h
    · have e : Effect (.poolFill 0#8) s u := poolFill_after (.inr ⟨_, rfl⟩) (by simpa using h)
      exact .inl (e.cntDrop (by simp [Instr.opcode]))
  · exact .inl (ingestEnd_cntDrop h)

theorem bodyOf_dropCounted (i : Instr) (s : State) : DropCounted s (bodyOf i s) := by
  by_cases hi : i.opcode ∉ [0x40#8, 0x70#8]
  · exact fun u h => .inl ((bodyOf_after h).cntDrop hi)
  · cases i <;> simp [Instr.opcode] at hi
    case poolAcquire => exact poolAcquire_dropCounted s
    case seqIngest => exact ingestStep_dropCounted s _

/-- A counter moves from `n` to `n'` by one, and only where `allowed`. -/
def MovesByOne (n n' : Word) (allowed : Prop) : Prop := n' = n ∨ (n' = n + 1#32 ∧ allowed)

/-- The three counters that a command's effect alone accounts for. -/
theorem Effect.counters {i : Instr} {s u : State} (e : Effect i s u) :
    MovesByOne s.cntMalformed u.cntMalformed (i.opcode = 0x70#8) ∧
      MovesByOne s.cntShort u.cntShort (i.opcode ∈ [0x41#8, 0x70#8]) ∧
      MovesByOne s.cntOverflow u.cntOverflow (i.opcode ∈ [0x33#8, 0x52#8, 0x71#8]) := by
  cases e
  case discard h => exact ⟨.inr ⟨rfl, by rw [h]; rfl⟩, .inl rfl, .inl rfl⟩
  case short h =>
    refine ⟨.inl rfl, .inr ⟨rfl, ?_⟩, .inl rfl⟩
    rcases h with rfl | ⟨slot, rfl⟩ <;> simp [Instr.opcode]
  case overflow h _ =>
    refine ⟨.inl rfl, .inl rfl, .inr ⟨rfl, ?_⟩⟩
    rcases h with rfl | ⟨slot, rfl⟩ | ⟨slot, rfl⟩ <;> simp [Instr.opcode]
  all_goals exact ⟨.inl rfl, .inl rfl, .inl rfl⟩

/-- CNT_DROP moves only under POOL_ACQUIRE and SEQ_INGEST. -/
theorem Effect.opcode_of_drop {i : Instr} {s u : State} (e : Effect i s u) (h : u.cntDrop = s.cntDrop + 1#32) :
    i.opcode ∈ [0x40#8, 0x70#8] := by
  by_contra hi
  rw [e.cntDrop hi] at h
  exact absurd h (by simp)

/-- Settles O51: CNT_DROP by `bodyOf_dropCounted`, which ties it to the status, the others by `Effect.counters`. -/
theorem countersMoveByOne : Obligations.CountersMoveByOne := by
  intro i s t h
  have kept : ∀ {n : Word} {p : Prop}, MovesByOne n n p := .inl rfl
  rcases exec_cases h with ⟨-, e⟩ | ⟨-, -, -, e⟩ | ⟨-, -, -, e⟩ | ⟨-, -, e⟩
  · cases e; exact ⟨kept, kept, kept, kept⟩
  · cases e; exact ⟨kept, kept, kept, kept⟩
  · cases e; exact ⟨kept, kept, kept, kept⟩
  · rcases settle_cases e.symm with ⟨code, data, u, hm, rfl⟩ | ⟨sub, u, hm, rfl⟩ | ⟨-, rfl⟩ | ⟨c, -, rfl⟩
    · have hafter : (bodyOf i s).after = some u := by rw [hm]; rfl
      have hu : Effect i s u := bodyOf_after hafter
      refine ⟨(bodyOf_dropCounted i s u hafter).imp id fun ⟨hcnt, hdone⟩ => ?_, hu.counters⟩
      cases hm.symm.trans hdone
      exact ⟨hcnt, Effect.opcode_of_drop hu hcnt, State.finish_lastResult _ _ _⟩
    · have hafter : (bodyOf i s).after = some u := by rw [hm]; rfl
      have hdrop := (bodyOf_dropCounted i s u hafter).resolve_right fun ⟨_, hdone⟩ => by cases hm.symm.trans hdone
      exact ⟨.inl hdrop, (bodyOf_after hafter).counters⟩
    · exact ⟨kept, kept, kept, kept⟩
    · exact ⟨kept, kept, kept, kept⟩

/-! ## CSR_READ (45_sequences R149) -/

/-- CSR_READ is performed whether or not the block is halted, on any port (60_exceptions R157; 30_encoding R83). -/
theorem exec_csrRead (a : BitVec 12) (s : State) :
    exec (.csrRead a) s = settle (.csrRead a) 1 s (csrRead a.toNat s) :=
  preamble_pass (by simp [turnedAway, performedHalted, Instr.opcode]) rfl rfl _

theorem exec_csrRead_register {s : State} {a : BitVec 12} {v : Word} (ha : a.toNat % 4 = 0)
    (h : registerAt s a.toNat = some v) : exec (.csrRead a) s = .next (s.finish .ok (.value v)) := by
  simp [exec_csrRead, csrRead, ha, h, settle]

/-- No register but SLOT_STATE stands at the gaps of R42 or from 0x040 on. -/
theorem registerAt_none {s : State} {addr : Nat} (h : addr = 0x01C ∨ addr = 0x02C ∨ 0x040 ≤ addr) :
    registerAt s addr = none := by
  unfold registerAt
  split
  case h_15 => rfl
  all_goals omega

/-- SLOT_STATE[k] is at `0x400 + 4 · k` (10_state R42). -/
theorem exec_csrRead_slot {s : State} {a : BitVec 12} {k : Nat} {st : SlotState} (ha : a.toNat = 0x400 + 4 * k)
    (hk : k < s.cfg.slotCount) (hst : s.slotState k = some st) :
    exec (.csrRead a) s = .next (s.finish .ok (.value (st.code.setWidth 32))) := by
  have haligned : a.toNat % 4 = 0 := by omega
  have hslot : (a.toNat - 0x400) / 4 = k := by omega
  have hpool : 0x400 ≤ a.toNat ∧ (a.toNat - 0x400) / 4 < s.cfg.slotCount := by omega
  have hnone : registerAt s a.toNat = none := registerAt_none (by omega)
  simp [exec_csrRead, csrRead, haligned, hnone, hpool, hslot, hk, hst, settle]

theorem exec_csrRead_unmapped {s : State} {a : BitVec 12} (h : a.toNat % 4 ≠ 0 ∨ (registerAt s a.toNat = none ∧
    ¬ (0x400 ≤ a.toNat ∧ (a.toNat - 0x400) / 4 < s.cfg.slotCount))) :
    exec (.csrRead a) s = .next (s.faultEntry .badCsr) := by
  rw [exec_csrRead, csrRead]
  rcases h with ha | ⟨hnone, hpool⟩
  · rw [if_pos ha]; rfl
  · rw [hnone, if_neg hpool, ite_self]; rfl

/-- CFG_POLICY as a sum of its fields. -/
theorem policyWord_eq (c : Config) : policyWord c = (if c.policy = .firstReady then 1#32 else 0#32) + 0x20#32 +
    (if c.pixelOrder = .le then 0x100#32 else 0#32) := by
  unfold policyWord
  cases c.policy <;> cases c.pixelOrder <;> rfl

theorem append_toNat {a b : Nat} (x : BitVec a) (y : BitVec b) : (x ++ y).toNat = x.toNat * 2 ^ b + y.toNat := by
  rw [BitVec.toNat_append, ← Nat.shiftLeft_add_eq_or_of_lt y.isLt, Nat.shiftLeft_eq]

/-- XF_DESC as a sum of its fields. -/
theorem xfDescWord_eq (d : XferDesc) : xfDescWord d =
    d.y.setWidth 32 + (d.h.setWidth 32 <<< 8) + (if d.buf then 0x10000#32 else 0#32) := by
  apply BitVec.eq_of_toNat_eq
  have hy := d.y.isLt
  have hh := d.h.isLt
  have hword : (xfDescWord d).toNat = (flagBit d.buf).toNat * 65536 + d.h.toNat * 256 + d.y.toNat := by
    unfold xfDescWord
    rw [append_toNat, append_toNat, append_toNat]
    simp only [BitVec.toNat_ofNat]
    omega
  rw [hword]
  cases d.buf <;> simp [flagBit, Nat.shiftLeft_eq] <;> omega

/-- Settles O44: register by register, the slot states and the unmapped addresses by `exec_csrRead_slot` and
`exec_csrRead_unmapped`. -/
theorem csrReadAnswers : Obligations.CsrReadAnswers := by
  intro s
  refine ⟨fun a v hmem => ?_, fun a k st ha hk hst => ?_, fun a ha => ?_⟩
  · rw [← policyWord_eq, ← xfDescWord_eq] at hmem
    simp only [List.mem_cons, Prod.mk.injEq, List.not_mem_nil, or_false] at hmem
    rcases hmem with ⟨rfl, rfl⟩ | ⟨rfl, rfl⟩ | ⟨rfl, rfl⟩ | ⟨rfl, rfl⟩ | ⟨rfl, rfl⟩ | ⟨rfl, rfl⟩ | ⟨rfl, rfl⟩ |
      ⟨rfl, rfl⟩ | ⟨rfl, rfl⟩ | ⟨rfl, rfl⟩ | ⟨rfl, rfl⟩ | ⟨rfl, rfl⟩ | ⟨rfl, rfl⟩ | ⟨rfl, rfl⟩
    all_goals exact exec_csrRead_register rfl rfl
  · rw [exec_csrRead_slot ha hk hst]
    cases st <;> rfl
  · apply exec_csrRead_unmapped
    rcases ha with ha | ha | ha | ha
    · exact .inl ha
    · simp only [List.mem_cons, List.not_mem_nil, or_false] at ha
      rcases ha with rfl | rfl
      · exact .inr ⟨registerAt_none (.inl rfl), by simp⟩
      · exact .inr ⟨registerAt_none (.inr (.inl rfl)), by simp⟩
    · exact .inr ⟨registerAt_none (by omega), by omega⟩
    · exact .inr ⟨registerAt_none (by omega), by omega⟩

/-! ## The bits of STATUS (10_state R43) -/

theorem statusWord_producerIndex (s : State) : (statusWord s).extractLsb' 8 8 = handleIndex s.ph := by
  unfold statusWord
  rw [extract_upper _ _ (by decide), extract_upper _ _ (by decide), extract_upper _ _ (by decide),
    extract_upper _ _ (by decide), extract_upper _ _ (by decide), extract_upper _ _ (by decide),
    extract_lower _ _ (by decide)]
  exact extract_whole _

theorem statusWord_consumerIndex (s : State) : (statusWord s).extractLsb' 16 8 = handleIndex s.ch := by
  unfold statusWord
  rw [extract_upper _ _ (by decide), extract_upper _ _ (by decide), extract_upper _ _ (by decide),
    extract_upper _ _ (by decide), extract_upper _ _ (by decide), extract_upper _ _ (by decide),
    extract_upper _ _ (by decide), extract_lower _ _ (by decide)]
  exact extract_whole _

theorem handleIndex_toNat {h : Option Nat} {i : Nat} (e : h = some i) (hi : i < 256) : (handleIndex h).toNat = i := by
  subst e
  rw [handleIndex, BitVec.toNat_ofNat]
  exact Nat.mod_eq_of_lt hi

/-- Settles O45: the bits of each flag by position, the indices as the fields they are appended as. -/
theorem statusWordBits : Obligations.StatusWordBits := by
  intro s
  refine ⟨?_, ?_, ?_, ?_, ?_, ?_, fun i e hi => ?_, fun e => ?_, fun i e hi => ?_, fun e => ?_, ?_, ?_⟩
  case refine_7 => rw [statusWord_producerIndex]; exact handleIndex_toNat e hi
  case refine_8 => rw [statusWord_producerIndex, e]; rfl
  case refine_9 => rw [statusWord_consumerIndex]; exact handleIndex_toNat e hi
  case refine_10 => rw [statusWord_consumerIndex, e]; rfl
  case refine_11 =>
    unfold statusWord
    rw [extract_upper _ _ (by decide), extract_upper _ _ (by decide), extract_upper _ _ (by decide),
      extract_upper _ _ (by decide), extract_upper _ _ (by decide), extract_lower _ _ (by decide)]
    exact extract_whole _
  case refine_12 =>
    unfold statusWord
    rw [extract_upper _ _ (by decide), extract_upper _ _ (by decide), extract_upper _ _ (by decide),
      extract_upper _ _ (by decide), extract_upper _ _ (by decide), extract_upper _ _ (by decide),
      extract_upper _ _ (by decide), extract_upper _ _ (by decide), extract_upper _ _ (by decide)]
    exact extract_whole _
  all_goals
    simp only [statusWord, BitVec.getLsbD_append]
    simp [flagBit]

end Sys2Proof.Machine
end

section
/-! The memory family (20_memory): the data spaces keep their canonical form and their bounds (R48), and LUT, HMAP, VMAP
and the configuration are written by no command (R51; 10_state R42). -/

namespace Sys2Proof.Machine

open Sys2Proof.Safety

/-! ## The data spaces (20_memory R48, R50, R53) -/

/-- Settles O54: a fill fits its slot, a band its buffer and a retired transfer the panel (`spacesOk_kept`); reset empties
every space. -/
theorem spacesKept : Obligations.SpacesKept :=
  fun s _ h e => spacesOk_kept.step h e fun ok _ _ => resetWith_spacesOk s.cfg ok

/-! ## The tables, the configuration and the inputs (20_memory R51; 10_state R42) -/

/-- `u` has the tables and the configuration of `s`. -/
def KeepsTables (s u : State) : Prop := u.lut = s.lut ∧ u.hmap = s.hmap ∧ u.vmap = s.vmap ∧ u.cfg = s.cfg

theorem KeepsTables.refl (s : State) : KeepsTables s s := ⟨rfl, rfl, rfl, rfl⟩

theorem keepsTables_kept (s : State) : KeptByAgents (KeepsTables s) where
  inputs _ _ _ _ _ _ _ _ h := h
  effect e h := by
    obtain ⟨hlut, hhmap, hvmap⟩ := e.tables
    rw [KeepsTables, hlut, hhmap, hvmap, e.cfg]
    exact h
  halt _ h := h
  retire _ _ h := h

/-- `u` has the inputs and the issuing port of `s`, fields of the model's own (log entries 4 to 7). -/
def KeepsInputs (s u : State) : Prop :=
  u.turns = s.turns ∧ u.cmdq = s.cmdq ∧ u.air = s.air ∧ u.issuer = s.issuer

theorem Effect.keepsInputs {i : Instr} {s u : State} (e : Effect i s u) : KeepsInputs s u := by
  cases e <;> exact ⟨rfl, rfl, rfl, rfl⟩

/-- A command's end, its progress and a fault write its port and the fault record, its effect none of the inputs. -/
theorem exec_keepsInputs {i : Instr} {s t : State} (e : exec i s = .next t) : KeepsInputs s t := by
  rcases exec_next e with ⟨u, code, data, hu, rfl⟩ | ⟨u, ps, hu, rfl⟩ | ⟨c, rfl⟩
  · exact hu.keepsInputs
  · exact hu.keepsInputs
  · exact ⟨rfl, rfl, rfl, rfl⟩

/-- Settles O50: no agent's move but reset writes a table or the configuration (`keepsTables_kept`), and no command an
input (`exec_keepsInputs`). -/
theorem tablesAndConfigurationKept : Obligations.TablesAndConfigurationKept := by
  refine ⟨fun s t e hno => ?_, fun i s t e => ?_⟩
  · exact (keepsTables_kept s).step (.refl s) e fun ok turns ht => absurd ht (hno ok turns)
  · obtain ⟨hlut, hhmap, hvmap, hcfg⟩ := (keepsTables_kept s).exec (.refl s) e
    exact ⟨hlut, hhmap, hvmap, hcfg, exec_keepsInputs e⟩

end Sys2Proof.Machine
end

section
/-! The encoding family (30_encoding): decoder and encoder are inverse, so a list of words decodes to a command exactly
when it begins with the command's words. -/

namespace Sys2Proof.Machine

open Sys2Proof.Laws

/-! ## A word by its fields (R75 to R82) -/

/-- The field that two adjacent fields form is known exactly when both are. -/
theorem append_eq_extract_iff {a b n : Nat} (x : BitVec a) (y : BitVec b) (w : BitVec n) (lo : Nat) :
    x ++ y = w.extractLsb' lo (a + b) ↔ x = w.extractLsb' (lo + b) a ∧ y = w.extractLsb' lo b := by
  have hw : w.extractLsb' (lo + b) a ++ w.extractLsb' lo b = w.extractLsb' lo (a + b) :=
    BitVec.extractLsb'_append_extractLsb'_eq_extractLsb' rfl
  refine ⟨fun h => ⟨?_, ?_⟩, fun ⟨hx, hy⟩ => by rw [← hw, hx, hy]⟩
  · have hx := congrArg (BitVec.extractLsb' b a) (h.trans hw.symm)
    rwa [extract_upper _ _ le_rfl, extract_upper _ _ le_rfl, Nat.sub_self, extract_whole, extract_whole] at hx
  · have hy := congrArg (BitVec.extractLsb' 0 b) (h.trans hw.symm)
    rwa [extract_lower _ _ (Nat.zero_add b).le, extract_lower _ _ (Nat.zero_add b).le, extract_whole, extract_whole] at hy

/-- A word is the field of all its bits. -/
theorem eq_word_iff {x w : Word} : x = w ↔ x = w.extractLsb' 0 32 := by rw [extract_whole]

theorem singleton_eq_iff {x w0 : Word} : [x] = [w0] ↔ x = w0.extractLsb' 0 32 := by
  rw [List.cons.injEq, and_iff_left rfl, eq_word_iff]

theorem encodeF0_eq_iff {op : BitVec 8} {w0 : Word} :
    encodeF0 op = [w0] ↔ op = opcodeOf w0 ∧ 0#24 = w0.extractLsb' 0 24 := by
  rw [encodeF0, singleton_eq_iff, append_eq_extract_iff]; rfl

theorem encodeFS_eq_iff {op slot : BitVec 8} {w0 : Word} : encodeFS op slot = [w0] ↔
    (op = opcodeOf w0 ∧ slot = w0.extractLsb' 16 8) ∧ 0#16 = w0.extractLsb' 0 16 := by
  rw [encodeFS, singleton_eq_iff, append_eq_extract_iff, append_eq_extract_iff]; rfl

theorem encodeSample_eq_iff {op sample : BitVec 8} {w0 : Word} : encodeSample op sample = [w0] ↔
    (op = opcodeOf w0 ∧ 0#16 = w0.extractLsb' 8 16) ∧ sample = w0.extractLsb' 0 8 := by
  rw [encodeSample, singleton_eq_iff, append_eq_extract_iff, append_eq_extract_iff]; rfl

theorem encodeIndex_eq_iff {op : BitVec 8} {index : BitVec 16} {w0 : Word} : encodeIndex op index = [w0] ↔
    (op = opcodeOf w0 ∧ 0#8 = w0.extractLsb' 16 8) ∧ index = w0.extractLsb' 0 16 := by
  rw [encodeIndex, singleton_eq_iff, append_eq_extract_iff, append_eq_extract_iff]; rfl

/-- Formats FL and FP (R80, R82). -/
theorem encode_byteHalf_iff {op x : BitVec 8} {y : BitVec 16} {w0 : Word} : [op ++ x ++ y] = [w0] ↔
    (op = opcodeOf w0 ∧ x = w0.extractLsb' 16 8) ∧ y = w0.extractLsb' 0 16 := by
  rw [singleton_eq_iff, append_eq_extract_iff, append_eq_extract_iff]; rfl

/-- Format FG (R81). -/
theorem encode_sclGeom_iff {res : BitVec 2} {lc : BitVec 4} {y : BitVec 16} {w0 : Word} :
    encode (.sclGeom res lc y) = [w0] ↔
      (((0x32#8 = opcodeOf w0 ∧ res = w0.extractLsb' 22 2) ∧ 0#2 = w0.extractLsb' 20 2) ∧ lc = w0.extractLsb' 16 4) ∧
        y = w0.extractLsb' 0 16 := by
  rw [encode, singleton_eq_iff, append_eq_extract_iff, append_eq_extract_iff, append_eq_extract_iff,
    append_eq_extract_iff]; rfl

/-- Format FI with a register address (R77). -/
theorem encode_csrRead_iff {a : BitVec 12} {w0 : Word} : encode (.csrRead a) = [w0] ↔
    (0x60#8 = opcodeOf w0 ∧ 0#12 = w0.extractLsb' 12 12) ∧ a = w0.extractLsb' 0 12 := by
  rw [encode, singleton_eq_iff, append_eq_extract_iff, append_eq_extract_iff]; rfl

/-- Format FH (R78). -/
theorem encode_hdrDecode_iff {b0 b1 b2 b3 b4 : BitVec 8} {w0 w1 : Word} :
    encode (.hdrDecode b0 b1 b2 b3 b4) = [w0, w1] ↔
      (((0x10#8 = opcodeOf w0 ∧ b4 = w0.extractLsb' 16 8) ∧ b2 = w0.extractLsb' 8 8) ∧ b3 = w0.extractLsb' 0 8) ∧
        (0#16 = w1.extractLsb' 16 16 ∧ b0 = w1.extractLsb' 8 8) ∧ b1 = w1.extractLsb' 0 8 := by
  rw [encode, List.cons.injEq, singleton_eq_iff, eq_word_iff (w := w0), append_eq_extract_iff, append_eq_extract_iff,
    append_eq_extract_iff, append_eq_extract_iff, append_eq_extract_iff]; rfl

/-- Format FE (R79). -/
theorem encode_hdrEncode_iff {fid y : BitVec 16} {res cm : BitVec 2} {lc : BitVec 4} {w0 w1 : Word} :
    encode (.hdrEncode fid y res cm lc) = [w0, w1] ↔
      ((((0x11#8 = opcodeOf w0 ∧ res = w0.extractLsb' 22 2) ∧ cm = w0.extractLsb' 20 2) ∧ lc = w0.extractLsb' 16 4) ∧
        y = w0.extractLsb' 0 16) ∧ 0#16 = w1.extractLsb' 16 16 ∧ fid = w1.extractLsb' 0 16 := by
  rw [encode, List.cons.injEq, singleton_eq_iff, eq_word_iff (w := w0), append_eq_extract_iff, append_eq_extract_iff,
    append_eq_extract_iff, append_eq_extract_iff, append_eq_extract_iff]; rfl

/-! ## Each format decodes exactly its own words (R75 to R84) -/

theorem whenZero_ok_iff {n : Nat} {w0 : Word} {mbz : BitVec n} {i j : Instr} :
    whenZero w0 mbz i = .ok j ↔ 0#n = mbz ∧ i = j := by
  unfold whenZero
  split
  · next h => simp [h]
  · next h => simp [Ne.symm h]

theorem decodeF0_ok_iff {w0 : Word} {i j : Instr} :
    decodeF0 w0 j = .ok i ↔ encodeF0 (opcodeOf w0) = [w0] ∧ j = i := by
  simp only [decodeF0, whenZero_ok_iff, encodeF0_eq_iff, true_and]

theorem decodeFS_ok_iff {w0 : Word} {mk : BitVec 8 → Instr} {i : Instr} :
    decodeFS w0 mk = .ok i ↔ ∃ slot, encodeFS (opcodeOf w0) slot = [w0] ∧ mk slot = i := by
  simp only [decodeFS, whenZero_ok_iff, encodeFS_eq_iff, true_and, and_assoc, exists_eq_left]

theorem decodeSample_ok_iff {w0 : Word} {mk : BitVec 8 → Instr} {i : Instr} :
    decodeSample w0 mk = .ok i ↔ ∃ sample, encodeSample (opcodeOf w0) sample = [w0] ∧ mk sample = i := by
  simp only [decodeSample, whenZero_ok_iff, encodeSample_eq_iff, true_and, and_assoc, exists_and_left, exists_eq_left]

theorem decodeIndex_ok_iff {w0 : Word} {mk : BitVec 16 → Instr} {i : Instr} :
    decodeIndex w0 mk = .ok i ↔ ∃ index, encodeIndex (opcodeOf w0) index = [w0] ∧ mk index = i := by
  simp only [decodeIndex, whenZero_ok_iff, encodeIndex_eq_iff, true_and, and_assoc, exists_and_left, exists_eq_left]

/-! ## The decoder and the encoder are inverse (R74 to R84) -/

/-- Every command's first word carries its opcode and fixes its length (R74). -/
theorem encodedShape (i : Instr) : EncodedShape.Statement i := by
  cases i with
  | hdrDecode => exact EncodedShape.hdrDecode _ _ _ _ _
  | hdrEncode => exact EncodedShape.hdrEncode _ _ _ _ _
  | hdrCheckLen => exact EncodedShape.hdrCheckLen _ _
  | rxPoll => exact EncodedShape.rxPoll
  | pxcExpand => exact EncodedShape.pxcExpand _
  | pxcLookup => exact EncodedShape.pxcLookup _
  | sclHmap => exact EncodedShape.sclHmap _
  | sclVmap => exact EncodedShape.sclVmap _
  | sclGeom => exact EncodedShape.sclGeom _ _ _
  | sclBand => exact EncodedShape.sclBand _
  | poolAcquire => exact EncodedShape.poolAcquire
  | poolFill => exact EncodedShape.poolFill _
  | poolCommit => exact EncodedShape.poolCommit _
  | poolAbort => exact EncodedShape.poolAbort _
  | poolSelect => exact EncodedShape.poolSelect
  | poolRelease => exact EncodedShape.poolRelease _
  | xfaWait => exact EncodedShape.xfaWait
  | xfaPush => exact EncodedShape.xfaPush _ _
  | xfaDrain => exact EncodedShape.xfaDrain _
  | csrRead => exact EncodedShape.csrRead _
  | seqIngest => exact EncodedShape.seqIngest
  | seqConsume => exact EncodedShape.seqConsume

/-- The words of a command carry its opcode, and are as many as that opcode asks for (R74). -/
theorem encode_head {i : Instr} {w0 : Word} {more : List Word} (h : encode i = w0 :: more) :
    opcodeOf w0 = i.opcode ∧ commandLength w0 = more.length + 1 := by
  obtain ⟨v0, rest, he, hop, hlen, -, -⟩ := encodedShape i
  cases he.symm.trans h
  exact ⟨hop, hlen⟩

theorem encode_of_decodeOne {w0 : Word} {i : Instr} (h : decodeOne w0 = .ok i) : encode i = [w0] := by
  have hop := decodeOne_opcode h
  unfold decodeOne at h
  split at h
  case h_1 | h_16 => -- FL and FP
    cases h
    exact encode_byteHalf_iff.2 ⟨⟨hop, rfl⟩, rfl⟩
  case h_2 | h_9 | h_13 | h_15 | h_19 | h_20 => -- F0
    obtain ⟨he, rfl⟩ := decodeF0_ok_iff.1 h
    rwa [← hop] at he
  case h_3 | h_4 => -- FI with a sample
    obtain ⟨sample, he, rfl⟩ := decodeSample_ok_iff.1 h
    rwa [← hop] at he
  case h_5 | h_6 => -- FI with a map index
    obtain ⟨index, he, rfl⟩ := decodeIndex_ok_iff.1 h
    rwa [← hop] at he
  case h_7 => -- FG
    obtain ⟨hmbz, rfl⟩ := whenZero_ok_iff.1 h
    exact encode_sclGeom_iff.2 ⟨⟨⟨⟨hop, rfl⟩, hmbz⟩, rfl⟩, rfl⟩
  case h_18 => -- FI with a register address
    obtain ⟨hmbz, rfl⟩ := whenZero_ok_iff.1 h
    exact encode_csrRead_iff.2 ⟨⟨hop, hmbz⟩, rfl⟩
  case h_8 | h_10 | h_11 | h_12 | h_14 | h_17 => -- FS
    obtain ⟨slot, he, rfl⟩ := decodeFS_ok_iff.1 h
    rwa [← hop] at he
  case h_21 => cases h -- reserved opcodes

theorem decodeOne_of_encode {w0 : Word} {i : Instr} (h : encode i = [w0]) : decodeOne w0 = .ok i := by
  obtain ⟨hop, -⟩ := encode_head h
  unfold decodeOne
  rw [hop]
  cases i
  case hdrDecode | hdrEncode => cases h
  case hdrCheckLen | xfaPush =>
    obtain ⟨⟨-, rfl⟩, rfl⟩ := encode_byteHalf_iff.1 h
    rfl
  case rxPoll | poolAcquire | poolSelect | xfaWait | seqIngest | seqConsume =>
    exact decodeF0_ok_iff.2 ⟨hop ▸ h, rfl⟩
  case pxcExpand sample | pxcLookup sample => exact decodeSample_ok_iff.2 ⟨sample, hop ▸ h, rfl⟩
  case sclHmap index | sclVmap index => exact decodeIndex_ok_iff.2 ⟨index, hop ▸ h, rfl⟩
  case sclGeom =>
    obtain ⟨⟨⟨⟨-, rfl⟩, hmbz⟩, rfl⟩, rfl⟩ := encode_sclGeom_iff.1 h
    exact whenZero_ok_iff.2 ⟨hmbz, rfl⟩
  case csrRead =>
    obtain ⟨⟨-, hmbz⟩, rfl⟩ := encode_csrRead_iff.1 h
    exact whenZero_ok_iff.2 ⟨hmbz, rfl⟩
  case sclBand slot | poolFill slot | poolCommit slot | poolAbort slot | poolRelease slot | xfaDrain slot =>
    exact decodeFS_ok_iff.2 ⟨slot, hop ▸ h, rfl⟩

theorem encode_of_decodeTwo {w0 w1 : Word} {i : Instr} (hlen : commandLength w0 = 2) (h : decodeTwo w0 w1 = .ok i) :
    encode i = [w0, w1] := by
  have hop := decodeTwo_opcode hlen h
  obtain ⟨hmbz, rfl⟩ := whenZero_ok_iff.1 h
  by_cases h10 : opcodeOf w0 = 0x10#8
  · rw [if_pos h10]
    exact encode_hdrDecode_iff.2 ⟨⟨⟨⟨h10.symm, rfl⟩, rfl⟩, rfl⟩, ⟨hmbz, rfl⟩, rfl⟩
  · rw [if_neg h10] at hop ⊢
    exact encode_hdrEncode_iff.2 ⟨⟨⟨⟨⟨hop, rfl⟩, rfl⟩, rfl⟩, rfl⟩, hmbz, rfl⟩

theorem decodeTwo_of_encode {w0 w1 : Word} {i : Instr} (h : encode i = [w0, w1]) : decodeTwo w0 w1 = .ok i := by
  obtain ⟨hop, -⟩ := encode_head h
  unfold decodeTwo
  rw [hop]
  cases i
  case hdrDecode =>
    obtain ⟨⟨⟨⟨-, rfl⟩, rfl⟩, rfl⟩, ⟨hmbz, rfl⟩, rfl⟩ := encode_hdrDecode_iff.1 h
    exact whenZero_ok_iff.2 ⟨hmbz, rfl⟩
  case hdrEncode =>
    obtain ⟨⟨⟨⟨⟨-, rfl⟩, rfl⟩, rfl⟩, rfl⟩, hmbz, rfl⟩ := encode_hdrEncode_iff.1 h
    exact whenZero_ok_iff.2 ⟨hmbz, rfl⟩
  all_goals cases h

theorem map_ok_iff {e : Except Reject Instr} {i : Instr} {tail rest : List Word} :
    e.map (·, tail) = .ok (i, rest) ↔ e = .ok i ∧ tail = rest := by
  cases e <;> simp [Except.map]

theorem commandLength_cases (w0 : Word) : commandLength w0 = 1 ∨ commandLength w0 = 2 := by
  unfold commandLength
  split
  · exact .inr rfl
  · exact .inl rfl

theorem decode_of_one {w0 : Word} (h : commandLength w0 = 1) (rest : List Word) :
    decode (w0 :: rest) = (decodeOne w0).map (·, rest) := if_neg (by omega)

theorem decode_of_two {w0 : Word} (h : commandLength w0 = 2) (w1 : Word) (rest : List Word) :
    decode (w0 :: w1 :: rest) = (decodeTwo w0 w1).map (·, rest) := if_pos h

/-- A list of words decodes to a command exactly when it begins with the command's words. -/
theorem decode_ok_iff {ws rest : List Word} {i : Instr} : decode ws = .ok (i, rest) ↔ encode i ++ rest = ws := by
  refine ⟨fun h => ?_, fun h => ?_⟩
  · unfold decode at h
    split at h
    · cases h
    · split at h
      · next hlen =>
        split at h
        · cases h
        · obtain ⟨htwo, rfl⟩ := map_ok_iff.1 h
          rw [encode_of_decodeTwo hlen htwo]; rfl
      · obtain ⟨hone, rfl⟩ := map_ok_iff.1 h
        rw [encode_of_decodeOne hone]; rfl
  · obtain ⟨w0, more, he, -, hlen, -, -⟩ := encodedShape i
    subst h
    rw [he]
    rcases commandLength_cases w0 with hone | htwo
    · obtain rfl : more = [] := List.length_eq_zero_iff.1 (by omega)
      exact (decode_of_one hone _).trans (map_ok_iff.2 ⟨decodeOne_of_encode he, rfl⟩)
    · obtain ⟨w1, rfl⟩ := List.length_eq_one_iff.1 (show more.length = 1 by omega)
      exact (decode_of_two htwo _ _).trans (map_ok_iff.2 ⟨decodeTwo_of_encode he, rfl⟩)

/-- Settles O2: `decode_ok_iff`, from the words to the command. -/
theorem decodeOfEncode : Obligations.DecodeOfEncode := fun _ _ => decode_ok_iff.2 rfl

/-- Settles O3: `decode_ok_iff`, from the command to the words. -/
theorem encodeOfDecode : Obligations.EncodeOfDecode := fun _ _ _ => decode_ok_iff.1

/-- Settles O1: each list of words is what `encode` makes of its command, by evaluation (`decode_ok_iff`). -/
theorem writtenWordsDecode : Obligations.WrittenWordsDecode := by
  refine ⟨?_, ?_, ?_, ?_, ?_, ?_, ?_, ?_, ?_, ?_, ?_⟩
  all_goals exact decode_ok_iff.2 rfl

/-- Settles O4: an opcode of no two-word command has one word, and `decodeOne` has no arm for it. -/
theorem reservedOpcodesRejected : Obligations.ReservedOpcodesRejected := by
  intro w0 rest hop
  rw [← opcodeOf] at hop ⊢
  have hlen : commandLength w0 = 1 := if_neg (by rintro (h | h) <;> simp [h] at hop)
  have hone : decodeOne w0 = .error (.reservedOpcode (opcodeOf w0)) := by
    unfold decodeOne
    split
    case h_21 => rfl
    all_goals next h => simp [← BitVec.toNat_inj, h] at hop
  rw [decode_of_one hlen, hone]
  rfl

end Sys2Proof.Machine
end

section
/-! The encoding family (30_encoding), the preamble of a command: words that are no command, a port R83 does not list, a
slot operand at or above N (R76, R84, R86), and what is left to the HOST port. -/

namespace Sys2Proof.Machine

open Sys2Proof.Safety

/-! ## Words that are no command (R84; 60_exceptions R160) -/

/-- An idle port of a running block takes the words of a whole command that does not decode, and faults. -/
theorem acceptCommand_of_reject {s : State} {w0 : Word} {more : List Word} {e : Reject}
    (hq : s.cmdq.get s.issuer = w0 :: more) (hwhole : commandLength w0 ≤ more.length + 1) (hrun : s.bstate = .run)
    (h : decode (w0 :: more) = .error e) : acceptCommand exec s =
      .next (State.faultEntry { s with cmdq := s.cmdq.set s.issuer ((w0 :: more).drop (commandLength w0)) } .illegalCmd) := by
  simp [acceptCommand, hq, Nat.not_lt.2 hwhole, hrun, h]

/-- Settles O5: an idle port's turn is `acceptCommand`. -/
theorem illegalCommandFaults : Obligations.IllegalCommandFaults := by
  intro s p turns w0 more e hw hrun ht hidle hq hwhole hd
  rw [step_of_turn hw ht]
  simp only [moveAgent, portTurn, hidle, PortState.idle]
  exact acceptCommand_of_reject hq hwhole hrun hd

/-! ## The first micro-step (60_exceptions R160) -/

/-- An idle port takes a command at its first micro-step (10_state R21). -/
theorem microStep_of_idle {s : State} (h : s.portState = .idle) : s.microStep = 1 :=
  State.microStep_eq_one (by rw [h]; exact Nat.zero_le 1)

theorem stepOf_of_idle {s : State} (h : s.portState = .idle) (i : Instr) : stepOf i s = 1 :=
  (stepOf_eq_one_or i s).elim id fun hk => hk.trans (microStep_of_idle h)

/-- A command an idle port takes goes through the preamble. -/
theorem exec_of_idle {s : State} (h : s.portState = .idle) (i : Instr) :
    exec i s = preamble i s (settle i 1 s (bodyOf i s)) := by
  rw [exec_eq, if_pos (stepOf_of_idle h i)]

/-- The port check comes first of what a running block checks. -/
theorem exec_unlistedPort {i : Instr} {s : State} (hrun : s.bstate = .run) (hidle : s.portState = .idle)
    (hport : allowedOn i s.issuer = false) : exec i s = .next (s.faultEntry .wrongAgent) := by
  rw [exec_of_idle hidle, preamble, turnedAway_run hrun, hport]; rfl

/-- The slot check comes after the port check. -/
theorem exec_badSlot {i : Instr} {s : State} (hrun : s.bstate = .run) (hidle : s.portState = .idle)
    (hport : allowedOn i s.issuer = true) (hslot : badSlotOperand s.cfg i = true) :
    exec i s = .next (s.faultEntry .badSlot) := by
  rw [exec_of_idle hidle, preamble, turnedAway_run hrun, hport, hslot]; rfl

/-- Settles O12: each command of format FS passes the port check on its own port and fails the slot check. -/
theorem slotOutOfRangeFaults : Obligations.SlotOutOfRangeFaults := by
  intro s slot hrun hidle hN
  have hslot : decide (s.cfg.slotCount ≤ slot.toNat) = true := decide_eq_true hN
  refine ⟨fun hp => ⟨?_, ?_, ?_⟩, fun hp => ⟨?_, ?_, ?_⟩⟩
  all_goals exact exec_badSlot hrun hidle (by rw [hp]; rfl) hslot

/-! ## The ports a command is listed for (R83, R86) -/

/-- R83's column of ports: a port is not listed for a command that is another port's alone. -/
theorem allowedOn_eq_false_iff (i : Instr) (p : Port) : allowedOn i p = false ↔
    (i.opcode ∈ [0x13#8, 0x40#8, 0x41#8, 0x42#8, 0x43#8, 0x70#8] ∧ p ≠ .producer) ∨
      (i.opcode ∈ [0x33#8, 0x44#8, 0x45#8, 0x50#8, 0x51#8, 0x52#8, 0x71#8] ∧ p ≠ .consumer) := by
  cases i <;> simp [allowedOn, Instr.opcode]

/-- The commands R83 lists for the HOST: the pure ones and CSR_READ. -/
theorem opcode_of_allowedOn_host {i : Instr} (h : allowedOn i .host = true) :
    i.opcode ∈ [0x10#8, 0x11#8, 0x12#8, 0x20#8, 0x21#8, 0x30#8, 0x31#8, 0x32#8, 0x60#8] := by
  cases i <;> simp [allowedOn, Instr.opcode] at h ⊢

/-- Settles O47: the HOST's commands are the pure ones and CSR_READ; any other ends in the preamble. -/
theorem hostChangesNothing : Obligations.HostChangesNothing := by
  intro i s t hhost hidle e
  by_cases hport : allowedOn i s.issuer = true
  · exact pureCommandsChangeNothing i s t (opcode_of_allowedOn_host (hhost ▸ hport)) e
  · rcases exec_cases e with ⟨-, e⟩ | ⟨-, -, -, e⟩ | ⟨-, -, -, e⟩ | ⟨-, hpass, -⟩
    · cases e; exact s.finish_onlyPortAndFault .halted .none
    · cases e; exact s.faultEntry_onlyPortAndFault .wrongAgent
    · cases e; exact s.faultEntry_onlyPortAndFault .badSlot
    · exact absurd (hpass (stepOf_of_idle hidle i)).1 hport


/-! ## What a command's own pseudocode raises -/

/-- The micro-step raises none of the faults of the preamble (60_exceptions R160). -/
def Micro.RaisesOwn : Micro → Prop
  | .raise c => c ∉ [.illegalCmd, .wrongAgent, .badSlot]
  | _ => True

@[simp] theorem Micro.raisesOwn_done (code : Code) (data : Data) (t : State) : (Micro.done code data t).RaisesOwn :=
  trivial
@[simp] theorem Micro.raisesOwn_next (sub : Option Status) (t : State) : (Micro.next sub t).RaisesOwn := trivial
@[simp] theorem Micro.raisesOwn_raise (c : Cause) :
    (Micro.raise c).RaisesOwn ↔ c ∉ [.illegalCmd, .wrongAgent, .badSlot] := Iff.rfl
@[simp] theorem Micro.raisesOwn_stop (f : Fault) : (Micro.stop f).RaisesOwn := trivial
@[simp] theorem Micro.raisesOwn_hold : Micro.hold.RaisesOwn := trivial
@[simp] theorem perform_raisesOwn (m : Micro) : (perform m).RaisesOwn ↔ m.RaisesOwn := by cases m <;> rfl

theorem hdrDecode_raisesOwn (b0 b1 b2 b3 b4 : Byte) (s : State) : (hdrDecode b0 b1 b2 b3 b4 s).RaisesOwn := by
  unfold hdrDecode; split <;> simp

theorem lenCheck_raisesOwn (flags : Byte) (n : Nat) (s : State) : (lenCheck flags n s).RaisesOwn := by
  unfold lenCheck
  split
  · simp
  · split <;> simp

theorem rxPoll_raisesOwn (s : State) : (rxPoll s).RaisesOwn := by unfold rxPoll; split <;> simp

theorem pxcLookup_raisesOwn (sample : Byte) (s : State) : (pxcLookup sample s).RaisesOwn := by
  unfold pxcLookup; split <;> simp

theorem mapEntry_raisesOwn (map : List Byte) (n : Nat) (s : State) : (mapEntry map n s).RaisesOwn := by
  unfold mapEntry
  split
  · simp
  · split <;> simp

theorem sclGeom_raisesOwn (res : BitVec 2) (lc : BitVec 4) (y : Half) (s : State) : (sclGeom res lc y s).RaisesOwn := by
  unfold sclGeom; split <;> simp

theorem sclBand_raisesOwn (k : Nat) (s : State) : (sclBand k s).RaisesOwn := by
  unfold sclBand
  split
  · simp
  · split
    · simp
    · split
      · simp
      · dsimp only
        split
        · simp
        · split <;> simp

theorem poolAcquire_raisesOwn (s : State) : (poolAcquire s).RaisesOwn := by
  unfold poolAcquire
  split
  · simp
  · split <;> simp

theorem poolFill_raisesOwn (k : Nat) (s : State) : (poolFill k s).RaisesOwn := by
  unfold poolFill
  split
  · simp
  · split
    · simp
    · split
      · simp
      · dsimp only
        split
        · simp
        · split <;> simp

theorem poolCommit_raisesOwn (k : Nat) (s : State) : (poolCommit k s).RaisesOwn := by unfold poolCommit; split <;> simp

theorem poolAbort_raisesOwn (k : Nat) (s : State) : (poolAbort k s).RaisesOwn := by unfold poolAbort; split <;> simp

theorem poolSelect_raisesOwn (s : State) : (poolSelect s).RaisesOwn := by
  unfold poolSelect
  split
  · simp
  · split
    · simp
    · simp
    · split <;> simp

theorem poolRelease_raisesOwn (k : Nat) (s : State) : (poolRelease k s).RaisesOwn := by
  unfold poolRelease; split <;> simp

theorem xfaWait_raisesOwn (s : State) : (xfaWait s).RaisesOwn := by unfold xfaWait; split <;> simp

theorem xfaPush_raisesOwn (y h : Nat) (s : State) : (xfaPush y h s).RaisesOwn := by
  unfold xfaPush
  split
  · simp
  · split <;> simp

theorem csrRead_raisesOwn (addr : Nat) (s : State) : (csrRead addr s).RaisesOwn := by
  unfold csrRead
  split
  · simp
  · split
    · simp
    · split
      · split <;> simp
      · simp

theorem ingestPoll_raisesOwn (s : State) : (ingestPoll s).RaisesOwn := by
  unfold ingestPoll
  split
  · simp
  · split <;> simp

theorem consumeSelect_raisesOwn (s : State) : (consumeSelect s).RaisesOwn := by
  unfold consumeSelect
  split
  · simp
  · exact (perform_raisesOwn _).2 (poolSelect_raisesOwn s)

/-- The pseudocode of a command's first micro-step raises no fault of the preamble. -/
theorem bodyOf_raisesOwn (i : Instr) {s : State} (hfirst : s.microStep = 1) : (bodyOf i s).RaisesOwn := by
  cases i with
  | hdrDecode => exact hdrDecode_raisesOwn _ _ _ _ _ s
  | hdrEncode | pxcExpand => trivial
  | hdrCheckLen => exact lenCheck_raisesOwn _ _ s
  | rxPoll => exact rxPoll_raisesOwn s
  | pxcLookup => exact pxcLookup_raisesOwn _ s
  | sclHmap | sclVmap => exact mapEntry_raisesOwn _ _ s
  | sclGeom => exact sclGeom_raisesOwn _ _ _ s
  | sclBand => exact sclBand_raisesOwn _ s
  | poolAcquire => exact poolAcquire_raisesOwn s
  | poolFill => exact poolFill_raisesOwn _ s
  | poolCommit => exact poolCommit_raisesOwn _ s
  | poolAbort => exact poolAbort_raisesOwn _ s
  | poolSelect => exact poolSelect_raisesOwn s
  | poolRelease => exact poolRelease_raisesOwn _ s
  | xfaWait => exact xfaWait_raisesOwn s
  | xfaPush => exact xfaPush_raisesOwn _ _ s
  | csrRead => exact csrRead_raisesOwn _ s
  | xfaDrain =>
    simp only [bodyOf, hfirst, drainStep]
    split <;> simp
  | seqIngest =>
    simp only [bodyOf, hfirst, ingestStep]
    exact ingestPoll_raisesOwn s
  | seqConsume =>
    simp only [bodyOf, hfirst, consumeStep]
    exact consumeSelect_raisesOwn s

/-! ## Exactly the unlisted ports fault (R86) -/

/-- A micro-step that ends in fault entry raised the fault. -/
theorem raise_of_settle_faultEntry {i : Instr} {k : Nat} {s : State} {m : Micro} {c : Cause}
    (h : settle i k s m = .next (s.faultEntry c)) : m = .raise c := by
  rcases settle_cases h with ⟨code, data, u, -, e⟩ | ⟨sub, u, -, e⟩ | ⟨-, e⟩ | ⟨d, hm, e⟩
  · have hresult := congrArg State.lastResult e
    simp at hresult
  · have hport := congrArg State.portState e
    simp [PortState.idle] at hport
  · have hport := congrArg State.portState e
    simp [PortState.idle] at hport
  · have hresult := congrArg State.lastResult e
    simp at hresult
    rw [hm, hresult]

/-- Settles O11: an unlisted port fails the first check of a running block (`exec_unlistedPort`), and neither the slot check
nor a command's own pseudocode raises `F_WRONG_AGENT` (`bodyOf_raisesOwn`). -/
theorem unlistedPortFaults : Obligations.UnlistedPortFaults := by
  intro i s hrun hidle
  rw [← allowedOn_eq_false_iff]
  refine ⟨fun h => ?_, exec_unlistedPort hrun hidle⟩
  rcases exec_cases h with ⟨haway, -⟩ | ⟨-, -, hport, -⟩ | ⟨-, -, -, e⟩ | ⟨-, -, e⟩
  · rw [turnedAway_run hrun] at haway
    cases haway
  · exact hport
  · injection e with e
    have hresult := congrArg State.lastResult e
    simp at hresult
  · have hown := bodyOf_raisesOwn i (microStep_of_idle hidle)
    rw [raise_of_settle_faultEntry e.symm] at hown
    simp at hown

end Sys2Proof.Machine
end

section
/-! The codec family (40_codec): the header tests and the fields of an accepted header said once, from which HDR_DECODE,
HDR_ENCODE, HDR_CHECK_LEN, the round trip, RX_POLL and POOL_FILL follow. -/

namespace Sys2Proof.Machine

open Sys2Proof.Laws Sys2Proof.Safety

/-! ## A command past the preamble (60_exceptions R160) -/

section
variable {i : Instr} {s : State}

/-- A first micro-step on a running block, a listed port and a slot of the pool runs the command's own pseudocode. -/
theorem exec_of_pass (hfirst : stepOf i s = 1) (hrun : s.bstate = .run) (hport : allowedOn i s.issuer = true)
    (hslot : badSlotOperand s.cfg i = false) : exec i s = settle i 1 s (bodyOf i s) := by
  rw [exec_eq, if_pos hfirst, preamble_pass (turnedAway_run hrun) hport hslot]

/-- A command with no slot operand that any port may issue passes the preamble of a running block. -/
theorem exec_of_anyPort (hfirst : stepOf i s = 1) (hrun : s.bstate = .run) (hhost : allowedOn i .host = true)
    (hslot : slotOperand i = none) : exec i s = settle i 1 s (bodyOf i s) :=
  exec_of_pass hfirst hrun (allowedOn_of_host hhost _) (by simp [badSlotOperand, hslot])

end

/-! ## The header tests (40_codec R90) -/

/-- The tests of R90 in their order, whatever is answered to a failed test and to a flags byte that passes. -/
theorem headerTests_eq_elim {α : Type} (maxLines : Nat) (f : Byte) (fail : Subcause → α) (pass : α) :
    (if (flagsLines f).toNat = 0 then fail .lcZero
      else if maxLines < (flagsLines f).toNat then fail .lcOver
      else if (flagsRes f).toNat = 3 then fail .resRsv
      else if 2 ≤ (flagsMode f).toNat then fail .cmodeRsv
      else pass) = (checkFlags maxLines f).elim pass fail := by
  simp only [checkFlags, ← BitVec.toNat_inj, BitVec.toNat_ofNat]
  split_ifs <;> rfl

/-- The flags bytes that pass every test. -/
theorem checkFlags_eq_none_iff {maxLines : Nat} {f : Byte} : checkFlags maxLines f = none ↔
    1 ≤ (flagsLines f).toNat ∧ (flagsLines f).toNat ≤ maxLines ∧ (flagsRes f).toNat ≤ 2 ∧ (flagsMode f).toNat ≤ 1 := by
  have hres : (flagsRes f).toNat < 4 := (flagsRes f).isLt
  simp only [checkFlags, ← BitVec.toNat_inj, BitVec.toNat_ofNat]
  split_ifs <;> simp <;> omega

/-! ## The fields of an accepted header (40_codec R92) -/

/-- The nine fields of R92, for a flags byte that passes the tests. -/
def headerFields (b0 b1 b2 b3 b4 : Byte) : Header :=
  let res := (flagsRes b4).toNat
  let cm := (flagsMode b4).toNat
  { frameId := b0 ++ b1, yStart := b2 ++ b3, resolution := flagsRes b4, colorMode := flagsMode b4,
    lineCount := flagsLines b4
    sourceWidth := if res = 0 then .w240 else if res = 1 then .w180 else .w120
    bytesPerPixel := if cm = 0 then 2 else 1
    isFullDepth := cm = 0
    expected := (if res = 0 then 240 else if res = 1 then 180 else 120) * (flagsLines b4).toNat *
      (if cm = 0 then 2 else 1) }

/-- Resolutions 0, 1 and 2 have a width (40_codec R89). -/
theorem widthOf_eq_some {res : BitVec 2} (h : res.toNat ≤ 2) :
    widthOf res = some (if res.toNat = 0 then .w240 else if res.toNat = 1 then .w180 else .w120) := by
  revert res; decide

/-- `decode` is the first failing test, or the fields. -/
theorem decodeHeader_eq (maxLines : Nat) (b0 b1 b2 b3 b4 : Byte) : decodeHeader maxLines b0 b1 b2 b3 b4 =
    (checkFlags maxLines b4).elim (.ok (headerFields b0 b1 b2 b3 b4)) .error := by
  cases hc : checkFlags maxLines b4 with
  | some c => simp [decodeHeader, hc]
  | none =>
    obtain ⟨-, -, hres, -⟩ := checkFlags_eq_none_iff.1 hc
    have hmode : flagsMode b4 = 0#2 ↔ (flagsMode b4).toNat = 0 := by simp [← BitVec.toNat_inj]
    simp only [decodeHeader, hc, widthOf_eq_some hres, headerFields, payloadBytes, bytesPerPixel, hmode,
      decide_eq_true_eq, Option.elim]
    split_ifs <;> rfl

theorem decodeHeader_ok_iff {maxLines : Nat} {b0 b1 b2 b3 b4 : Byte} {h : Header} :
    decodeHeader maxLines b0 b1 b2 b3 b4 = .ok h ↔
      checkFlags maxLines b4 = none ∧ headerFields b0 b1 b2 b3 b4 = h := by
  rw [decodeHeader_eq]
  cases checkFlags maxLines b4 <;> simp

/-! ## HDR_DECODE, HDR_ENCODE and HDR_CHECK_LEN (40_codec R93, R95, R96) -/

/-- Settles O15: the tests by `headerTests_eq_elim`, the fields by `decodeHeader_eq`. -/
theorem hdrDecodeAnswers : Obligations.HdrDecodeAnswers := by
  intro s b0 b1 b2 b3 b4 hrun lc res cm
  refine (exec_of_anyPort rfl hrun rfl rfl).trans (.trans ?_ (congrArg _
    (headerTests_eq_elim s.cfg.maxLines b4 (fun c => s.finish .malformed (.cause c)) _).symm))
  simp only [bodyOf, hdrDecode, decodeHeader_eq]
  cases checkFlags s.cfg.maxLines b4 <;> rfl

/-- Settles O16: `encodeHeader` is R94's list. -/
theorem hdrEncodeAnswers : Obligations.HdrEncodeAnswers :=
  fun _ _ _ _ _ _ hrun => exec_of_anyPort rfl hrun rfl rfl

/-- Settles O18: the tests as in HDR_DECODE, then the comparison of R96. -/
theorem hdrCheckLenAnswers : Obligations.HdrCheckLenAnswers := by
  intro s flags avail hrun lc res cm expected
  refine (exec_of_anyPort rfl hrun rfl rfl).trans (.trans ?_ (congrArg _
    (headerTests_eq_elim s.cfg.maxLines flags (fun c => s.finish .malformed (.cause c)) _).symm))
  simp only [bodyOf, lenCheck, decodeHeader_eq]
  cases checkFlags s.cfg.maxLines flags with
  | some c => rfl
  | none =>
    change settle _ 1 s (if avail.toNat < expected then _ else _) = _
    split <;> rfl

/-! ## The round trip (40_codec R94, R99) -/

section
variable (res cm : BitVec 2) (lc : BitVec 4)

@[simp] theorem flagsRes_append : flagsRes (res ++ cm ++ lc) = res := by
  rw [flagsRes, extract_upper _ _ (by decide), extract_upper _ _ (by decide)]; exact extract_whole res

@[simp] theorem flagsMode_append : flagsMode (res ++ cm ++ lc) = cm := by
  rw [flagsMode, extract_upper _ _ (by decide), extract_lower _ _ (by decide)]; exact extract_whole cm

@[simp] theorem flagsLines_append : flagsLines (res ++ cm ++ lc) = lc := by
  rw [flagsLines, extract_lower _ _ (by decide)]; exact extract_whole lc

end

/-- A flags byte is its three fields. -/
theorem flags_eq_append (f : Byte) : flagsRes f ++ flagsMode f ++ flagsLines f = f := by
  have h := (append_eq_extract_iff (flagsRes f ++ flagsMode f) (flagsLines f) f 0).2
    ⟨(append_eq_extract_iff _ _ f 4).2 ⟨rfl, rfl⟩, rfl⟩
  rwa [extract_whole] at h

/-- A u16 is its two bytes. -/
theorem half_eq_append (x : Half) : x.extractLsb' 8 8 ++ x.extractLsb' 0 8 = x := by
  have h := (append_eq_extract_iff (x.extractLsb' 8 8) (x.extractLsb' 0 8) x 0).2 ⟨rfl, rfl⟩
  rwa [extract_whole] at h

theorem half_high_append (a b : Byte) : (a ++ b).extractLsb' 8 8 = a := by
  rw [extract_upper _ _ le_rfl]; exact extract_whole a

theorem half_low_append (a b : Byte) : (a ++ b).extractLsb' 0 8 = b := by
  rw [extract_lower _ _ le_rfl]; exact extract_whole b

/-- The five fields of a header pack into the bytes they were read from, whether or not these are accepted. -/
theorem encodeHeader_headerFields (b0 b1 b2 b3 b4 : Byte) :
    encodeHeader (b0 ++ b1) (b2 ++ b3) (flagsRes b4) (flagsMode b4) (flagsLines b4) = [b0, b1, b2, b3, b4] := by
  simp only [encodeHeader, half_high_append, half_low_append, flags_eq_append]

/-- Settles O17: the fields of a packed header are those packed, and the bytes of unpacked fields are those unpacked. -/
theorem headerRoundTrip : Obligations.HeaderRoundTrip := by
  refine ⟨fun maxLines fid y res cm lc hres hcm hpos hmax => ?_, fun maxLines b0 b1 b2 b3 b4 h hok => ?_⟩
  · have hvalid : checkFlags maxLines (res ++ cm ++ lc) = none := checkFlags_eq_none_iff.2 (by simp [*])
    exact ⟨_, decodeHeader_ok_iff.2 ⟨hvalid, rfl⟩, half_eq_append fid, half_eq_append y, flagsRes_append res cm lc,
      flagsMode_append res cm lc, flagsLines_append res cm lc⟩
  · obtain ⟨-, rfl⟩ := decodeHeader_ok_iff.1 hok
    exact encodeHeader_headerFields b0 b1 b2 b3 b4

/-! ## RX_POLL (40_codec R98) -/

/-- Settles O19: by the queue. -/
theorem rxPollAnswers : Obligations.RxPollAnswers := by
  intro s hrun hport
  have hexec : exec .rxPoll s = settle .rxPoll 1 s (rxPoll s) := exec_of_pass rfl hrun (by simp [allowedOn, hport]) rfl
  refine ⟨fun hq => ?_, fun d rest hq => ?_⟩ <;> rw [hexec, rxPoll, hq] <;> rfl

/-! ## POOL_FILL (40_codec R97; 43_pool R124) -/

/-- A slot of the pool is updated by setting it. -/
theorem State.updateSlot_eq_set {s : State} {k : Nat} {sl : Slot} (h : s.slots[k]? = some sl) (f : Slot → Slot) :
    s.updateSlot k f = { s with slots := s.slots.set k (f sl) } := by
  rw [State.updateSlot, List.modify_eq_set_getElem?, h]; rfl

/-- The filled slot's payload: the datagram's bytes after its header where they were copied, the old ones elsewhere. -/
theorem read_filledSlot {h : Header} {d : Datagram} (hfits : h.expected ≤ d.length - 5) (sl : Slot) (k : Nat) :
    Sparse.read (filledSlot h d sl).payload k = if k < h.expected then d[5 + k]? else Sparse.read sl.payload k := by
  have hlen : ((d.drop 5).take h.expected).length = h.expected := by simp [hfits]
  by_cases hk : k < h.expected
  · rw [if_pos hk, filledSlot, Sparse.read_write_inside (Nat.zero_le k) (by omega), Nat.sub_zero,
      List.getElem?_take_of_lt hk, List.getElem?_drop]
  · rw [if_neg hk, filledSlot, Sparse.read_write_outside (by omega)]

/-- Filling a slot in `Filling` leaves it so, with the five fields of the header and the filled mark. -/
theorem filledSlot_eq_slotOfBand {sl : Slot} (hst : sl.state = .filling) (h : Header) (d : Datagram) :
    filledSlot h d sl = slotOfBand .filling h (filledSlot h d sl).payload := by
  rw [← hst]; rfl

/-- POOL_FILL raises `F_BAD_STATE` where one of its premises is missing. -/
theorem poolFill_badState {s : State} {k : Nat} (h : s.ph ≠ some k ∨ s.slotState k ≠ some .filling ∨
    (∃ sl, s.slots[k]? = some sl ∧ sl.filled = true) ∨ s.rxd = none) : poolFill k s = .raise .badState := by
  unfold poolFill
  split
  · rfl
  · next hp =>
    simp only [Bool.or_eq_true, Bool.not_eq_true', not_or, Bool.not_eq_false, Bool.not_eq_true] at hp
    obtain ⟨hholds, hunfilled⟩ := hp
    obtain ⟨hph, hst⟩ := State.producerHolds_iff.1 hholds
    rcases h with h | h | ⟨sl, hsl, hf⟩ | h
    · exact absurd hph h
    · exact absurd hst h
    · simp [hsl, hf] at hunfilled
    · rw [h]

/-- The premises of POOL_FILL: the PRODUCER holds slot `k`, which is `sl` and not filled yet, and datagram `d`. -/
structure MayFill (s : State) (k : Nat) (sl : Slot) (d : Datagram) : Prop where
  handle : s.ph = some k
  slot : s.slots[k]? = some sl
  filling : sl.state = .filling
  unfilled : sl.filled = false
  datagram : s.rxd = some d

section
variable {s : State} {k : Nat} {sl : Slot} {d : Datagram} (hm : MayFill s k sl d)
include hm

theorem MayFill.not_badState : (!s.producerHolds k || (s.slots[k]?).any (·.filled)) = false := by
  have hholds : s.producerHolds k = true :=
    State.producerHolds_iff.2 ⟨hm.handle, State.slotState_eq_some.2 ⟨sl, hm.slot, hm.filling⟩⟩
  simp [hholds, hm.slot, hm.unfilled]

theorem poolFill_malformed {c : Subcause} (hh : headerOf s.cfg.maxLines d = .error c) :
    poolFill k s = .done .malformed (.cause c) s := by
  simp [poolFill, hm.not_badState, hm.datagram, hh]

theorem poolFill_short {h : Header} (hh : headerOf s.cfg.maxLines d = .ok h) (hl : d.length - 5 < h.expected) :
    poolFill k s =
      .done .short (.lacks h.expected (d.length - 5)) { s with cntShort := s.cntShort + 1#32 } := by
  simp [poolFill, hm.not_badState, hm.datagram, hh, hl]

/-- A payload that is whole and fits the slot is copied (43_pool R124). -/
theorem poolFill_ok {h : Header} (hh : headerOf s.cfg.maxLines d = .ok h) (hl : h.expected ≤ d.length - 5)
    (hb : h.expected ≤ s.cfg.slotBytes.toNat) :
    poolFill k s = .done .ok (.fits h.expected (d.length - 5 - h.expected))
      { s with slots := s.slots.set k (slotOfBand .filling h (filledSlot h d sl).payload) } := by
  rw [← filledSlot_eq_slotOfBand hm.filling, ← State.updateSlot_eq_set hm.slot]
  simp [poolFill, hm.not_badState, hm.datagram, hh, Nat.not_lt.2 hl, Nat.not_lt.2 hb]

end

/-- Settles O31: POOL_FILL's four answers one by one, the copied bytes by `read_filledSlot`. -/
theorem poolFillAnswers : Obligations.PoolFillAnswers := by
  intro s slot hrun hport hslot
  have hexec : exec (.poolFill slot) s = settle (.poolFill slot) 1 s (poolFill slot.toNat s) :=
    exec_of_pass rfl hrun (by simp [allowedOn, hport]) (by simpa [badSlotOperand, slotOperand] using hslot)
  rw [hexec]
  refine ⟨fun sl d hph hsl hst hunfilled hd => ?_, fun h => by rw [poolFill_badState h]; rfl⟩
  have hm : MayFill s slot.toNat sl d := ⟨hph, hsl, hst, hunfilled, hd⟩
  refine ⟨fun c hh => ?_, fun h hh hl => ?_, fun h hh hl hb => ?_⟩
  · rw [poolFill_malformed hm hh]; rfl
  · rw [poolFill_short hm hh hl]; rfl
  · refine ⟨(filledSlot h d sl).payload, read_filledSlot hl sl, ?_⟩
    rw [poolFill_ok hm hh hl hb]; rfl

end Sys2Proof.Machine
end

section
/-! The pixel family (41_pixel): PXC_EXPAND and PXC_LOOKUP by their pseudocode past the preamble, the default expansion
field by field as a number. -/

namespace Sys2Proof.Machine

/-- The `n` bits of a word from bit `lo` on, as a number. -/
theorem extract_toNat {w : Nat} (x : BitVec w) (lo n : Nat) :
    (x.extractLsb' lo n).toNat = x.toNat / 2 ^ lo % 2 ^ n := by
  rw [BitVec.extractLsb'_toNat, Nat.shiftRight_eq_div_pow]

/-! ## The default expansion (41_pixel R101) -/

/-- `R5 = r3 : r3[2:1]`. -/
theorem replicateRed_toNat (r3 : BitVec 3) : (r3 ++ r3.extractLsb' 1 2).toNat = r3.toNat * 4 + r3.toNat / 2 := by
  have hr : r3.toNat < 8 := r3.isLt
  rw [append_toNat, extract_toNat]
  omega

/-- `G6 = g3 : g3`. -/
theorem replicateGreen_toNat (g3 : BitVec 3) : (g3 ++ g3).toNat = g3.toNat * 9 := by
  rw [append_toNat]
  omega

/-- `B5 = b2 : b2 : b2[1]`. -/
theorem replicateBlue_toNat (b2 : BitVec 2) :
    (b2 ++ b2 ++ b2.extractLsb' 1 1).toNat = b2.toNat * 10 + b2.toNat / 2 := by
  have hb : b2.toNat < 4 := b2.isLt
  rw [append_toNat, append_toNat, extract_toNat]
  omega

/-- Red is the sample's top three bits, green the next three and blue the last two. -/
theorem expandReplicate_toNat (s : Byte) : (expandReplicate s).toNat =
    (s.toNat / 32 * 4 + s.toNat / 32 / 2) * 2048 + s.toNat / 4 % 8 * 9 * 32 +
      (s.toNat % 4 * 10 + s.toNat % 4 / 2) := by
  have hs : s.toNat < 256 := s.isLt
  have hred : (s.extractLsb' 5 3).toNat = s.toNat / 32 := by rw [extract_toNat]; omega
  have hgreen : (s.extractLsb' 2 3).toNat = s.toNat / 4 % 8 := extract_toNat s 2 3
  have hblue : (s.extractLsb' 0 2).toNat = s.toNat % 4 := by rw [extract_toNat]; omega
  simp only [expandReplicate]
  rw [append_toNat, append_toNat, replicateRed_toNat, replicateGreen_toNat, replicateBlue_toNat, hred, hgreen, hblue]
  omega

theorem expandPixel_of_replicate {c : Config} (h : c.expand = .replicate) (s : Byte) :
    expandPixel c s = expandReplicate s := by
  simp [expandPixel, h]

/-! ## PXC_EXPAND and PXC_LOOKUP (41_pixel R105, R106) -/

/-- Settles O20: the answer past the preamble, the default pattern by `expandReplicate_toNat`. -/
theorem pxcExpandAnswers : Obligations.PxcExpandAnswers := by
  intro s sample hrun
  refine ⟨exec_of_anyPort rfl hrun rfl rfl, fun hdefault => ?_⟩
  rw [expandPixel_of_replicate hdefault]
  exact expandReplicate_toNat sample

/-- A table as reset builds it answers every sample with its expansion (41_pixel R102). -/
theorem pxcLookup_builtLut {s : State} (hlut : s.lut = builtLut s.cfg) (sample : Byte) :
    pxcLookup sample s = .done .ok (.pixel (expandPixel s.cfg sample)) s := by
  rw [pxcLookup, hlut, builtLut_get]

/-- Settles O21: the answer past the preamble, the entry read by `pxcLookup_builtLut`. -/
theorem pxcLookupAnswers : Obligations.PxcLookupAnswers := by
  intro s sample hrun hlut
  have hexec : exec (.pxcLookup sample) s = settle (.pxcLookup sample) 1 s (pxcLookup sample s) :=
    exec_of_anyPort rfl hrun rfl rfl
  rw [hexec, pxcLookup_builtLut hlut]
  rfl

end Sys2Proof.Machine
end

section
/-! The scaler family (42_scaler): the scale maps, the geometry of each branch, the source pixel of a destination pixel, and
what SCL_BAND leaves in the inactive buffer, from which the band's content laws follow. -/

namespace Sys2Proof.Machine

open Sys2Proof.Safety

/-! ## The scale maps (42_scaler R107, R108, R118, R119) -/

/-- The rounding `(i · 180 + 120) / 240` in lowest terms; on the raster the clamp never binds. -/
theorem map180_eq {i : Nat} (h : i < 240) : map180 i = (3 * i + 2) / 4 := by
  unfold map180
  omega

theorem builtMap_entry {i v : Nat} (h : i < 240) (hv : (3 * i + 2) / 4 = v) :
    builtMap[i]? = some (BitVec.ofNat 8 v) := by
  rw [builtMap_get h, map180_eq h, hv]

/-- An entry that is read stands on the raster. -/
theorem toNat_of_builtMap {i : Nat} {a : Byte} (h : builtMap[i]? = some a) : i < 240 ∧ a.toNat = (3 * i + 2) / 4 := by
  obtain ⟨hi, -⟩ := List.getElem?_eq_some_iff.1 h
  rw [builtMap, List.length_map, List.length_range] at hi
  rw [builtMap_get hi, Option.some.injEq] at h
  rw [← h, map180_toNat, map180_eq hi]
  exact ⟨hi, rfl⟩

/-- The first destination index of a source index. -/
theorem builtMap_surjective {v : Nat} (h : v < 180) : builtMap[4 * v / 3]? = some (BitVec.ofNat 8 v) :=
  builtMap_entry (by omega) (by omega)

/-- Settles O22: every entry is `(3 · i + 2) / 4` (`builtMap_entry`), which grows with `i` and stays at or below 179. -/
theorem scaleMapLaws : Obligations.ScaleMapLaws := by
  refine ⟨by simp [builtMap], fun k hk => ⟨?_, ?_, ?_, ?_⟩, fun i j a b hij ha hb => ?_,
    fun v hv => ⟨_, builtMap_surjective hv⟩⟩
  iterate 4 exact builtMap_entry (by omega) (by omega)
  · obtain ⟨-, ha⟩ := toNat_of_builtMap ha
    obtain ⟨hj, hb⟩ := toNat_of_builtMap hb
    omega

theorem mapEntry_builtMap {i : Nat} (h : i < 240) (s : State) :
    mapEntry builtMap i s = .done .ok (.index (BitVec.ofNat 8 ((3 * i + 2) / 4))) s := by
  rw [mapEntry, if_neg (Nat.not_le.2 h), builtMap_entry h rfl]

theorem mapEntry_badOperand {i : Nat} (h : 240 ≤ i) (map : List Byte) (s : State) :
    mapEntry map i s = .raise .badOperand := if_pos h

/-- Settles O23: both commands are `mapEntry` past the preamble. -/
theorem mapCommandsAnswer : Obligations.MapCommandsAnswer := by
  intro s index hrun
  have hhmap : exec (.sclHmap index) s = settle (.sclHmap index) 1 s (mapEntry s.hmap index.toNat s) :=
    exec_of_anyPort rfl hrun rfl rfl
  have hvmap : exec (.sclVmap index) s = settle (.sclVmap index) 1 s (mapEntry s.vmap index.toNat s) :=
    exec_of_anyPort rfl hrun rfl rfl
  rw [hhmap, hvmap]
  refine ⟨fun hi hbuilt => ?_, fun hi hbuilt => ?_, fun hi => ⟨?_, ?_⟩⟩
  · rw [hbuilt, mapEntry_builtMap hi]; rfl
  · rw [hbuilt, mapEntry_builtMap hi]; rfl
  · rw [mapEntry_badOperand hi]; rfl
  · rw [mapEntry_badOperand hi]; rfl

/-! ## The geometry of a band (42_scaler R109 to R113) -/

/-- R110: `(y0 · 240 + 90) / 180` in lowest terms. -/
theorem dstY0_w180 (y0 : Nat) : dstY0 .w180 y0 = (4 * y0 + 1) / 3 := by
  simp only [dstY0]
  omega

/-- R110: `ceil(lc · 240 / 180)` in lowest terms. -/
theorem dstLines_w180 (y0 lc : Nat) : dstLines .w180 y0 lc = (4 * lc + 2) / 3 := by
  simp only [dstLines, ceilDiv]
  omega

/-- R111: twice the lines, or what the raster has left. -/
theorem dstLines_w120 (y0 lc : Nat) : dstLines .w120 y0 lc = min (2 * lc) (240 - 2 * y0) := by
  simp only [dstLines]
  split_ifs <;> omega

/-- No branch more than doubles the lines of a band. -/
theorem dstLines_le (w : SrcWidth) (y0 lc : Nat) : dstLines w y0 lc ≤ 2 * lc := by
  cases w with
  | w240 => simp only [dstLines]; omega
  | w180 => rw [dstLines_w180]; omega
  | w120 => rw [dstLines_w120]; omega

/-- R112's clip; the subtraction is 0 at and beyond row 240. -/
theorem clippedRows_eq (dst lines : Nat) : clippedRows dst lines = min lines (240 - dst) := by
  unfold clippedRows
  split_ifs <;> omega

section
variable (outRows : Nat) (w : SrcWidth) (y0 lc : Nat)

@[simp] theorem geom_dstY0 : (geom outRows w y0 lc).dstY0 = dstY0 w y0 := by
  dsimp only [geom]
  split_ifs <;> rfl

@[simp] theorem geom_dstLineCount : (geom outRows w y0 lc).dstLineCount = dstLines w y0 lc := by
  dsimp only [geom]
  split_ifs <;> rfl

/-- A band taller than the buffer overflows. -/
theorem geom_of_tooTall (h : outRows < dstLines w y0 lc) :
    (geom outRows w y0 lc).verdict = .overflow ∧ (geom outRows w y0 lc).y = 0 ∧ (geom outRows w y0 lc).h = 0 := by
  simp [geom, h]

/-- A band that fits the buffer is clipped at the raster (R112). -/
theorem geom_of_fits (h : dstLines w y0 lc ≤ outRows) :
    (geom outRows w y0 lc).h = min (dstLines w y0 lc) (240 - dstY0 w y0) ∧
      (geom outRows w y0 lc).verdict = (if (geom outRows w y0 lc).h = 0 then .nodraw else .ok) ∧
      (geom outRows w y0 lc).y = if (geom outRows w y0 lc).h = 0 then 0 else dstY0 w y0 := by
  simp only [geom, if_neg (Nat.not_lt.2 h), clippedRows_eq]
  exact ⟨trivial, trivial, trivial⟩

theorem geom_overflow_iff : (geom outRows w y0 lc).verdict = .overflow ↔ outRows < dstLines w y0 lc := by
  refine ⟨fun hv => ?_, fun h => (geom_of_tooTall outRows w y0 lc h).1⟩
  by_contra hfit
  rw [(geom_of_fits outRows w y0 lc (Nat.le_of_not_lt hfit)).2.1] at hv
  split at hv <;> cases hv

end

/-- Settles O25: the rows of an OK band by `geom_bounds`, the absence of overflow by `dstLines_le`. -/
theorem geometryStaysOnTheRaster : Obligations.GeometryStaysOnTheRaster := by
  intro outRows maxLines y0 lc w
  refine ⟨fun hok => ?_, fun hlc hover => ?_⟩
  · obtain ⟨-, -, hrows, hdrawn⟩ := geom_bounds outRows w y0 lc
    obtain ⟨hpos, hraster⟩ := hdrawn hok
    exact ⟨by omega, hpos, hrows, by omega⟩
  · have htall := (geom_overflow_iff _ w y0 lc).1 hover
    have hdouble := dstLines_le w y0 lc
    omega

/-! ## SCL_GEOM (42_scaler R114) -/

/-- The tests of R90 on SCL_GEOM's operands: color mode 0 never fails. -/
theorem checkFlags_geom (maxLines : Nat) (res : BitVec 2) (lc : BitVec 4) :
    checkFlags maxLines (res ++ 0#2 ++ lc) =
      if lc.toNat = 0 then some .lcZero else if maxLines < lc.toNat then some .lcOver
      else if res.toNat = 3 then some .resRsv else none := by
  simp [checkFlags, ← BitVec.toNat_inj]

theorem sclGeom_malformed {s : State} {res : BitVec 2} {lc : BitVec 4} {c : Subcause}
    (h : checkFlags s.cfg.maxLines (res ++ 0#2 ++ lc) = some c) (y : Half) :
    sclGeom res lc y s = .done .malformed (.cause c) s := by
  simp only [sclGeom, h]

theorem sclGeom_ok {s : State} {res : BitVec 2} {lc : BitVec 4} {w : SrcWidth}
    (h : checkFlags s.cfg.maxLines (res ++ 0#2 ++ lc) = none) (hw : widthOf res = some w) (y : Half) :
    sclGeom res lc y s = .done .ok (.geom (geom s.cfg.outRows w y.toNat lc.toNat)) s := by
  simp only [sclGeom, h, hw]

/-- Settles O24: the tests by `checkFlags_geom`, the branches by the closed forms of `dstY0` and `dstLines`, the verdict by
`geom_of_tooTall` and `geom_of_fits`. -/
theorem sclGeomAnswers : Obligations.SclGeomAnswers := by
  intro s res lc y hrun
  have hexec : exec (.sclGeom res lc y) s = settle (.sclGeom res lc y) 1 s (sclGeom res lc y s) :=
    exec_of_anyPort rfl hrun rfl rfl
  have hcheck := checkFlags_geom s.cfg.maxLines res lc
  rw [hexec]
  refine ⟨fun hzero => ?_, fun hover => ?_, fun hpos hmax hres => ?_, fun hpos hmax hres => ?_⟩
  · rw [if_pos hzero] at hcheck
    rw [sclGeom_malformed hcheck]; rfl
  · rw [if_neg (by omega), if_pos hover] at hcheck
    rw [sclGeom_malformed hcheck]; rfl
  · rw [if_neg (by omega), if_neg (by omega), if_pos hres] at hcheck
    rw [sclGeom_malformed hcheck]; rfl
  · rw [if_neg (by omega), if_neg (by omega), if_neg (by omega)] at hcheck
    rw [sclGeom_ok hcheck (widthOf_eq_some hres)]
    refine ⟨_, rfl, fun h => ?_, fun h => ?_, fun h => ?_, fun h => ?_, fun h => ?_⟩
    · simp [h, dstY0, dstLines]
    · simp [h, dstY0_w180, dstLines_w180]
    · simp [h, dstY0, dstLines_w120]
    · exact geom_of_tooTall _ _ _ _ (by simpa using h)
    · simpa only [geom_dstY0, geom_dstLineCount] using geom_of_fits _ _ _ _ (by simpa using h)

/-! ## Pixels in memory (00_scope R10; 20_memory R56) -/

/-- The bytes at `2 · k` and `2 · k + 1` of a list of pixels are those of pixel `k`. -/
theorem getElem?_flatMap_pixelBytes (o : ByteOrder) (pixels : List Half) (k : Nat) {j : Nat} (hj : j < 2) :
    (pixels.flatMap (pixelBytes o))[2 * k + j]? = pixels[k]?.bind fun p => (pixelBytes o p)[j]? := by
  induction pixels generalizing k with
  | nil => simp
  | cons p ps ih =>
    have hlen : (pixelBytes o p).length = 2 := by cases o <;> rfl
    rw [List.flatMap_cons]
    cases k with
    | zero => rw [List.getElem?_append_left (by omega), Nat.mul_zero, Nat.zero_add]; rfl
    | succ k =>
      rw [List.getElem?_append_right (by omega), hlen, show 2 * (k + 1) + j - 2 = 2 * k + j by omega, ih]; rfl

theorem pixelBytes_pixelOf (o : ByteOrder) (a b : Byte) : pixelBytes o (pixelOf o a b) = [a, b] := by
  cases o <;> simp only [pixelBytes, pixelOf, half_high_append, half_low_append]

theorem pixelOf_pixelBytes {o : ByteOrder} {p : Half} {a b : Byte} (h : pixelBytes o p = [a, b]) : pixelOf o a b = p := by
  cases o <;> simp only [pixelBytes, List.cons.injEq, and_true] at h <;> obtain ⟨rfl, rfl⟩ := h <;>
    exact half_eq_append p

/-- A pixel is read where its two bytes stand, in either byte order. -/
theorem readPixel_eq_some_iff {o : ByteOrder} {m : Memory} {a : Nat} {p : Half} :
    readPixel o m a = some p ↔ ∀ j < 2, Sparse.read m (a + j) = (pixelBytes o p)[j]? := by
  constructor
  · intro h
    unfold readPixel at h
    split at h
    · next x y hx hy =>
      cases h
      rw [pixelBytes_pixelOf]
      intro j hj
      interval_cases j
      · exact hx
      · exact hy
    · cases h
  · intro h
    obtain ⟨x, y, hxy⟩ := List.length_eq_two.1 (show (pixelBytes o p).length = 2 by cases o <;> rfl)
    have hx : Sparse.read m a = some x := (h 0 (by omega)).trans (by rw [hxy]; rfl)
    have hy : Sparse.read m (a + 1) = some y := (h 1 (by omega)).trans (by rw [hxy]; rfl)
    simp only [readPixel, hx, hy, pixelOf_pixelBytes hxy]

/-- Two memories with the same pixel at an address have its two bytes in common. -/
theorem read_eq_of_readPixel {o : ByteOrder} {m n : Memory} {a j : Nat} {p : Half} (hm : readPixel o m a = some p)
    (hn : readPixel o n a = some p) (hj : j < 2) :
    (Sparse.read m (a + j)).isSome ∧ Sparse.read m (a + j) = Sparse.read n (a + j) := by
  rw [readPixel_eq_some_iff.1 hm j hj, readPixel_eq_some_iff.1 hn j hj]
  refine ⟨?_, rfl⟩
  cases o <;> simp [pixelBytes, hj]

/-- A pixel of a list that is written from address 0 on is read back. -/
theorem readPixel_write {o : ByteOrder} (m : Memory) {pixels : List Half} {k : Nat} {p : Half} (h : pixels[k]? = some p) :
    readPixel o (Sparse.write m 0 (pixels.flatMap (pixelBytes o))) (2 * k) = some p := by
  obtain ⟨hk, -⟩ := List.getElem?_eq_some_iff.1 h
  refine readPixel_eq_some_iff.2 fun j hj => ?_
  rw [Sparse.read_write_inside (Nat.zero_le _) (by rw [flatMap_pixelBytes_length]; omega), Nat.sub_zero,
    getElem?_flatMap_pixelBytes o pixels k hj, h, Option.bind_some]

/-- Reading `k` of a list of readings that are all defined. -/
theorem getElem?_of_allDefined {α : Type} {f : Nat → Option α} {n k : Nat} {vs : List α}
    (h : allDefined ((List.range n).map f) = some vs) (hk : k < n) : vs[k]? = f k := by
  have hlen := allDefined_length h
  rw [List.length_map, List.length_range] at hlen
  have hread : ((List.range n).map f)[k]? = (vs.map some)[k]? := by rw [allDefined_eq_some.1 h]
  rw [List.getElem?_map, List.getElem?_range hk, List.getElem?_map, List.getElem?_eq_getElem (hlen ▸ hk)] at hread
  rw [List.getElem?_eq_getElem (hlen ▸ hk)]
  exact (Option.some.inj hread).symm

/-- A buffer that takes the pixels of another memory takes its bytes. -/
theorem read_write_bufferPixels {o : ByteOrder} {m : Memory} {h : Nat} {pixels : List Half}
    (hpx : bufferPixels o m h = some pixels) (n : Memory) {k : Nat} (hk : k < 480 * h) :
    (Sparse.read (Sparse.write n 0 (pixels.flatMap (pixelBytes o))) k).isSome ∧
      Sparse.read (Sparse.write n 0 (pixels.flatMap (pixelBytes o))) k = Sparse.read m k := by
  have hpixel : pixels[k / 2]? = readPixel o m (2 * (k / 2)) := getElem?_of_allDefined hpx (by omega)
  have hlen := allDefined_length hpx
  rw [List.length_map, List.length_range] at hlen
  rw [List.getElem?_eq_getElem (by omega)] at hpixel
  rw [← Nat.div_add_mod k 2]
  exact read_eq_of_readPixel (readPixel_write n (List.getElem?_eq_getElem (by omega))) hpixel.symm (Nat.mod_lt k (by omega))

/-! ## The source of a destination pixel (42_scaler R115, R116) -/

/-- R116's source row. -/
def srcRow (w : SrcWidth) (lc r : Nat) : Nat :=
  match w with
  | .w240 => r
  | .w180 => min ((3 * r + 2) / 4) (lc - 1)
  | .w120 => r / 2

/-- R116's source column. -/
def srcCol (w : SrcWidth) (c : Nat) : Nat :=
  match w with
  | .w240 => c
  | .w180 => (3 * c + 2) / 4
  | .w120 => c / 2

section
variable {s : State} {m : SlotMeta} {payload : Memory} {r c : Nat}

/-- With the maps as reset builds them every destination pixel has its source; only the 180 branch indexes a map by the
row. -/
theorem srcPos_eq {w : SrcWidth} (lc : Nat) (hh : s.hmap = builtMap) (hv : s.vmap = builtMap)
    (hr : w = .w180 → r < 240) (hc : c < 240) : srcPos s w lc r c = some (srcRow w lc r, srcCol w c) := by
  cases w with
  | w240 => rfl
  | w120 => rfl
  | w180 =>
    simp only [srcPos, hh, hv, builtMap_get (hr rfl), builtMap_get hc, map180_toNat, srcRow, srcCol]
    rw [map180_eq (hr rfl), map180_eq hc]

theorem bandPixel_eq_srcPix (hh : s.hmap = builtMap) (hv : s.vmap = builtMap) (hr : m.srcWidth = .w180 → r < 240)
    (hc : c < 240) : bandPixel s m payload r c =
      srcPix s m payload (srcRow m.srcWidth m.srcLineCount.toNat r) (srcCol m.srcWidth c) := by
  simp only [bandPixel, srcPos_eq _ hh hv hr hc]

/-- R115 at full depth: a straight copy. -/
theorem srcPix_of_fullDepth (h : m.isFullDepth = true) (sr sc : Nat) :
    srcPix s m payload sr sc = readPixel s.cfg.pixelOrder payload (2 * (m.srcWidth.samples * sr + sc)) := by
  simp only [srcPix, h, if_true]

/-- R115 at reduced depth: the sample's entry of LUT, which reset built from EXPAND. -/
theorem srcPix_of_reducedDepth (hl : s.lut = builtLut s.cfg) (h : m.isFullDepth = false) (sr sc : Nat) :
    srcPix s m payload sr sc = (Sparse.read payload (m.srcWidth.samples * sr + sc)).map (expandPixel s.cfg) := by
  simp only [srcPix, h, Bool.false_eq_true, if_false]
  cases Sparse.read payload (m.srcWidth.samples * sr + sc) with
  | none => rfl
  | some b => rw [hl]; exact builtLut_get s.cfg b

/-- Destination pixel `(r, c)` stands at place `240 · r + c` of the band. -/
theorem getElem?_bandPixels {h : Nat} {pixels : List Half} (hpx : bandPixels s m payload h = some pixels) (hr : r < h)
    (hc : c < 240) : pixels[240 * r + c]? = bandPixel s m payload r c := by
  rw [getElem?_of_allDefined hpx (by omega), show (240 * r + c) / 240 = r by omega,
    show (240 * r + c) % 240 = c by omega]

end

/-- Settles O29: `bandPixel_eq_srcPix` in each branch; every column is hit since `4 · sc / 3` maps to `sc`. -/
theorem scaledBandsCopySourcePixels : Obligations.ScaledBandsCopySourcePixels := by
  intro s m payload hlines hh hv
  refine ⟨fun hw a b _ hb => ?_, fun hw r hr => ⟨fun c hc => ?_, fun sc hsc => ?_⟩⟩
  · have hcopy : ∀ i < 2, ∀ j < 2, bandPixel s m payload (2 * a + i) (2 * b + j) = srcPix s m payload a b := by
      intro i hi j hj
      rw [bandPixel_eq_srcPix hh hv (fun h => by rw [hw] at h; cases h) (by omega), hw]
      simp only [srcRow, srcCol]
      rw [show (2 * a + i) / 2 = a by omega, show (2 * b + j) / 2 = b by omega]
    exact ⟨hcopy 0 (by omega) 0 (by omega), hcopy 0 (by omega) 1 (by omega), hcopy 1 (by omega) 0 (by omega),
      hcopy 1 (by omega) 1 (by omega)⟩
  · refine ⟨_, _, ?_, ?_, bandPixel_eq_srcPix hh hv (fun _ => hr) hc⟩ <;> rw [hw] <;> simp only [srcRow, srcCol] <;> omega
  · refine ⟨4 * sc / 3, srcRow .w180 m.srcLineCount.toNat r, by omega, by simp only [srcRow]; omega, ?_⟩
    rw [bandPixel_eq_srcPix hh hv (fun _ => hr) (by omega), hw]
    simp only [srcCol]
    rw [show (3 * (4 * sc / 3) + 2) / 4 = sc by omega]

/-! ## SCL_BAND (42_scaler R120) -/

theorem exec_sclBand {s : State} {slot : BitVec 8} (hrun : s.bstate = .run) (hport : s.issuer = .consumer)
    (hslot : slot.toNat < s.cfg.slotCount) :
    exec (.sclBand slot) s = settle (.sclBand slot) 1 s (sclBand slot.toNat s) :=
  exec_of_pass rfl hrun (by simp [allowedOn, hport]) (by simpa [badSlotOperand, slotOperand] using hslot)

theorem sclBand_badState {s : State} {k : Nat} (h : s.ch ≠ some k ∨ s.slotState k ≠ some .displaying) :
    sclBand k s = .raise .badState := by
  have hholds : s.consumerHolds k = false := by
    rw [← Bool.not_eq_true, State.consumerHolds_iff]
    tauto
  simp [sclBand, hholds]

/-- The premises of SCL_BAND: the CONSUMER holds slot `k`, which is `sl` and has the metadata `m`. -/
structure HoldsSlot (s : State) (k : Nat) (sl : Slot) (m : SlotMeta) : Prop where
  handle : s.ch = some k
  slot : s.slots[k]? = some sl
  displaying : sl.state = .displaying
  info : sl.info = some m

/-- The inactive buffer with these pixels in its first rows (20_memory R50). -/
def State.drawnBuffer (s : State) (pixels : List Half) : Memory :=
  Sparse.write (s.obuf.get (!s.abi)) 0 (pixels.flatMap (pixelBytes s.cfg.pixelOrder))

/-- A band of geometry `g` is latched, and `buffer` is what the inactive buffer has become. -/
def State.withBand (s : State) (g : Geom) (buffer : Memory) : State :=
  { s with
    obuf := s.obuf.set (!s.abi) buffer
    obufRows := s.obufRows.set (!s.abi) (BitVec.ofNat 8 g.h)
    clatch := some { verdict := g.verdict, y := BitVec.ofNat 8 g.y, h := BitVec.ofNat 8 g.h } }

@[simp] theorem State.withBand_inactive (s : State) (g : Geom) (buffer : Memory) :
    (s.withBand g buffer).obuf.get (!s.abi) = buffer :=
  PerBuf.get_set_self _ _ _

theorem Verdict.code_of_ne_overflow {v : Verdict} (h : v ≠ .overflow) : v.code = if v = .ok then .ok else .nodraw := by
  cases v with
  | ok | nodraw => rfl
  | overflow => exact absurd rfl h

section
variable {s : State} {k : Nat} {sl : Slot} {m : SlotMeta} (hs : HoldsSlot s k sl m)
include hs

theorem HoldsSlot.consumerHolds : s.consumerHolds k = true :=
  State.consumerHolds_iff.2 ⟨hs.handle, State.slotState_eq_some.2 ⟨sl, hs.slot, hs.displaying⟩⟩

theorem sclBand_overflow (hv : (slotGeom s.cfg m).verdict = .overflow) :
    sclBand k s = .done .overflow (.tooTall (slotGeom s.cfg m).dstY0 (slotGeom s.cfg m).dstLineCount)
      { s with cntOverflow := s.cntOverflow + 1#32, clatch := some { verdict := .overflow, y := 0#8, h := 0#8 } } := by
  simp [sclBand, hs.consumerHolds, hs.slot, hs.info, hv]

theorem sclBand_drawn (hv : (slotGeom s.cfg m).verdict ≠ .overflow) {pixels : List Half}
    (hpx : bandPixels s m sl.payload (slotGeom s.cfg m).h = some pixels) :
    sclBand k s = .done (slotGeom s.cfg m).verdict.code (.geom (slotGeom s.cfg m))
      (s.withBand (slotGeom s.cfg m) (s.drawnBuffer pixels)) := by
  simp [sclBand, hs.consumerHolds, hs.slot, hs.info, hv, hpx, State.withBand, State.drawnBuffer]

end

theorem exec_sclBand_drawn {s : State} {slot : BitVec 8} {sl : Slot} {m : SlotMeta} (hs : HoldsSlot s slot.toNat sl m)
    (hrun : s.bstate = .run) (hport : s.issuer = .consumer) (hslot : slot.toNat < s.cfg.slotCount)
    (hv : (slotGeom s.cfg m).verdict ≠ .overflow) {pixels : List Half}
    (hpx : bandPixels s m sl.payload (slotGeom s.cfg m).h = some pixels) :
    exec (.sclBand slot) s = .next ((s.withBand (slotGeom s.cfg m) (s.drawnBuffer pixels)).finish
      (slotGeom s.cfg m).verdict.code (.geom (slotGeom s.cfg m))) := by
  rw [exec_sclBand hrun hport hslot, sclBand_drawn hs hv hpx]
  rfl

/-- Settles O27: the overflow branch by `sclBand_overflow`, a slot not held by `sclBand_badState`. -/
theorem sclBandRejects : Obligations.SclBandRejects := by
  intro s slot hrun hport hslot
  rw [exec_sclBand hrun hport hslot]
  refine ⟨fun sl m hch hsl hst hm hv => ?_, fun h => by rw [sclBand_badState h]; rfl⟩
  rw [sclBand_overflow ⟨hch, hsl, hst, hm⟩ hv]
  rfl

/-- Destination pixel `(r, c)` is read back from row `r`, column `c` of the buffer. -/
theorem readPixel_drawnBuffer {s : State} {m : SlotMeta} {payload : Memory} {h r c : Nat} {pixels : List Half} {p : Half}
    (hpx : bandPixels s m payload h = some pixels) (hr : r < h) (hc : c < 240) (hp : bandPixel s m payload r c = some p) :
    readPixel s.cfg.pixelOrder (s.drawnBuffer pixels) (2 * (240 * r + c)) = some p :=
  readPixel_write _ ((getElem?_bandPixels hpx hr hc).trans hp)

/-- The buffer's rows past the band keep their contents. -/
theorem read_drawnBuffer_beyond {s : State} {m : SlotMeta} {payload : Memory} {pixels : List Half}
    (hpx : bandPixels s m payload (slotGeom s.cfg m).h = some pixels) {a : Nat} (ha : 480 * (slotGeom s.cfg m).h ≤ a) :
    Sparse.read (s.drawnBuffer pixels) a = Sparse.read (s.obuf.get (!s.abi)) a :=
  Sparse.read_write_outside (.inr (by rw [bandBytes_length hpx]; omega))

/-- Settles O26: the band is defined (`bandPixels_defined`), so SCL_BAND writes it (`sclBand_drawn`); each pixel is read
back (`readPixel_drawnBuffer`) and is the source pixel of R116 (`bandPixel_eq_srcPix`). -/
theorem sclBandDraws : Obligations.SclBandDraws := by
  intro s slot sl m hrun hport hslot _ hch hsl hst hm hband hl hh hv hverdict
  obtain ⟨pixels, hpx⟩ := bandPixels_defined hl hh hv hband hm
  refine ⟨_, exec_sclBand_drawn ⟨hch, hsl, hst, hm⟩ hrun hport hslot hverdict hpx, ?_⟩
  rw [State.finish_obuf, State.withBand_inactive, Verdict.code_of_ne_overflow hverdict]
  refine ⟨fun r c hr hc => ?_, fun a ha => read_drawnBuffer_beyond hpx ha, rfl⟩
  obtain ⟨p, hp⟩ := Option.isSome_iff_exists.1 (bandPixel_defined hl hh hv hband hm hr hc)
  have hr240 : r < 240 := Nat.lt_of_lt_of_le hr (slotGeom_rows s.cfg m).1
  have hsrc := (bandPixel_eq_srcPix hh hv (fun _ => hr240) hc).symm.trans hp
  refine ⟨srcRow m.srcWidth m.srcLineCount.toNat r, srcCol m.srcWidth c, p, ?_, ?_, ?_, ?_, ?_,
    readPixel_drawnBuffer hpx hr hc hp⟩
  iterate 3 exact fun hw => by rw [hw]; exact ⟨rfl, rfl⟩
  · intro hfull; rw [← srcPix_of_fullDepth hfull, hsrc]
  · intro hred; rw [← srcPix_of_reducedDepth hl hred, hsrc]

/-! ## The identity band (42_scaler R117; 20_memory R56) -/

section
variable {s : State} {m : SlotMeta} (hw : m.srcWidth = .w240) (hfull : m.isFullDepth = true)
include hw

/-- A 240-wide band that lies on the raster fits the buffer and is drawn whole. -/
theorem slotGeom_identity {c : Config} (hwf : c.wellFormed = true) (hmax : m.srcLineCount.toNat ≤ c.maxLines)
    (hraster : m.srcY0.toNat + m.srcLineCount.toNat ≤ 240) :
    (slotGeom c m).verdict ≠ .overflow ∧ (slotGeom c m).h = m.srcLineCount.toNat := by
  obtain ⟨-, -, -, -, hrows, -, -⟩ := (wellFormed_iff c).1 hwf
  have hfits : dstLines m.srcWidth m.srcY0.toNat m.srcLineCount.toNat ≤ c.outRows := by
    rw [hw]
    exact hmax.trans hrows
  refine ⟨fun hover => Nat.not_lt.2 hfits ((geom_overflow_iff _ _ _ _).1 hover), ?_⟩
  rw [slotGeom, (geom_of_fits _ _ _ _ hfits).1, hw]
  simp only [dstLines, dstY0]
  omega

include hfull

/-- The identity branch reads pixel `k` of the payload for pixel `k` of the band; no table is read. -/
theorem bandPixel_identity (payload : Memory) (r c : Nat) :
    bandPixel s m payload r c = readPixel s.cfg.pixelOrder payload (2 * (240 * r + c)) := by
  simp only [bandPixel, srcPos, hw, srcPix_of_fullDepth hfull, SrcWidth.samples]

theorem bandPixels_identity (payload : Memory) (h : Nat) :
    bandPixels s m payload h = bufferPixels s.cfg.pixelOrder payload h := by
  simp only [bandPixels, bufferPixels, bandPixel_identity hw hfull, Nat.div_add_mod]

end

/-- Settles O28: the band is the payload's own pixels (`bandPixels_identity`), which carry its bytes
(`read_write_bufferPixels`). -/
theorem identityBandCopiesThePayload : Obligations.IdentityBandCopiesThePayload := by
  intro s slot sl m hrun hport hslot hwf hch hsl hst hm hband hw hfull hraster
  obtain ⟨m', hm', -, hmax, hpayload⟩ := hband
  cases hm.symm.trans hm'
  obtain ⟨hverdict, hrows⟩ := slotGeom_identity hw hwf hmax hraster
  have hbytes : payloadBytes m.srcWidth m.srcLineCount.toNat m.isFullDepth = 480 * m.srcLineCount.toNat := by
    simp only [payloadBytes, hw, hfull, SrcWidth.samples, bytesPerPixel, if_true]
    omega
  rw [hbytes] at hpayload
  obtain ⟨pixels, hpixels⟩ := bufferPixels_defined (o := s.cfg.pixelOrder) hpayload
  have hpx : bandPixels s m sl.payload (slotGeom s.cfg m).h = some pixels := by
    rw [bandPixels_identity hw hfull, hrows, hpixels]
  refine ⟨_, exec_sclBand_drawn ⟨hch, hsl, hst, hm⟩ hrun hport hslot hverdict hpx, fun k hk => ?_⟩
  rw [State.finish_obuf, State.withBand_inactive]
  exact read_write_bufferPixels hpixels _ hk

end Sys2Proof.Machine
end

section
/-! The pool family (43_pool): the selection as the least of a set of candidates, the pool commands by their pseudocode past
the preamble, and what the effects of each port's commands leave alone. -/

namespace Sys2Proof.Machine

/-! ## The first slot in a state -/

theorem findIdx_state_eq_some_iff {slots : List Slot} {st : SlotState} {k : Nat} :
    slots.findIdx? (fun sl => sl.state = st) = some k ↔
      (∃ sl, slots[k]? = some sl ∧ sl.state = st) ∧ ∀ j < k, ∀ sl, slots[j]? = some sl → sl.state ≠ st := by
  rw [List.findIdx?_eq_some_iff_getElem]
  constructor
  · rintro ⟨hk, hst, hmin⟩
    refine ⟨⟨slots[k], List.getElem?_eq_getElem hk, by simpa using hst⟩, fun j hj sl hsl => ?_⟩
    obtain ⟨hlen, rfl⟩ := List.getElem?_eq_some_iff.1 hsl
    simpa using hmin j hj
  · rintro ⟨⟨sl, hsl, hst⟩, hmin⟩
    obtain ⟨hk, rfl⟩ := List.getElem?_eq_some_iff.1 hsl
    exact ⟨hk, by simpa using hst, fun j hj => by simpa using hmin j hj _ (List.getElem?_eq_getElem _)⟩

theorem findIdx_state_eq_none_iff {slots : List Slot} {st : SlotState} :
    slots.findIdx? (fun sl => sl.state = st) = none ↔ ∀ sl ∈ slots, sl.state ≠ st := by
  simp [List.findIdx?_eq_none_iff]

theorem State.slotState_ne_some {s : State} {k : Nat} {st : SlotState} :
    s.slotState k ≠ some st ↔ ∀ sl, s.slots[k]? = some sl → sl.state ≠ st := by
  simp [State.slotState_eq_some]

/-- No index of the pool is in a state exactly when no slot is. -/
theorem State.forall_slotState_ne {s : State} {st : SlotState} :
    (∀ k, s.slotState k ≠ some st) ↔ ∀ sl ∈ s.slots, sl.state ≠ st := by
  simp only [State.slotState_ne_some, List.mem_iff_getElem?]
  exact ⟨fun h sl ⟨k, hk⟩ => h k sl hk, fun h k sl hk => h sl ⟨k, hk⟩⟩

/-- `firstFree` is the `Free` slot of lowest index (43_pool R123). -/
theorem firstFree_eq_some_iff {s : State} {k : Nat} : firstFree s.slots = some k ↔
    s.slotState k = some .free ∧ ∀ j < k, s.slotState j ≠ some .free := by
  simp only [firstFree, findIdx_state_eq_some_iff, State.slotState_ne_some, State.slotState_eq_some]

theorem firstFree_eq_none_iff {s : State} : firstFree s.slots = none ↔ ∀ k, s.slotState k ≠ some .free := by
  rw [firstFree, findIdx_state_eq_none_iff, State.forall_slotState_ne]

/-! ## The selection (43_pool R127 to R129) -/

/-- Slot `j` of the list is `Ready` and has this key. -/
def ReadyKey (slots : List Slot) (j key : Nat) : Prop :=
  ∃ sl m, slots[j]? = some sl ∧ sl.state = .ready ∧ sl.info = some m ∧ selectKey m = key

/-- `(index, key)` is the best so far or a `Ready` slot of a list whose first slot has index `i`. -/
def Candidate (slots : List Slot) (i : Nat) (best : Option (Nat × Nat)) (c : Nat × Nat) : Prop :=
  best = some c ∨ ∃ j, c.1 = i + j ∧ ReadyKey slots j c.2

/-- The order of the selection: the lesser key, the lower index among equal keys (43_pool R129). -/
def Ahead (b c : Nat × Nat) : Prop := b.2 ≤ c.2 ∧ (c.1 < b.1 → b.2 < c.2)

theorem Ahead.refl (b : Nat × Nat) : Ahead b b := ⟨Nat.le_refl _, fun h => absurd h (Nat.lt_irrefl _)⟩

theorem Ahead.trans {a b c : Nat × Nat} (h : Ahead a b) (h' : Ahead b c) : Ahead a c := by
  simp only [Ahead] at *
  omega

/-- `r` is the first of `P` in the order of the selection, or none where `P` is empty. -/
def Leads (P : Nat × Nat → Prop) : Option (Nat × Nat) → Prop
  | none => ∀ c, ¬ P c
  | some b => P b ∧ ∀ c, P c → Ahead b c

/-- Candidates may be left out that one of those kept is ahead of. -/
theorem Leads.mono {P Q : Nat × Nat → Prop} {r : Option (Nat × Nat)} (h : Leads Q r) (hsub : ∀ c, Q c → P c)
    (hahead : ∀ c, P c → ∃ b, Q b ∧ Ahead b c) : Leads P r := by
  cases r with
  | none => exact fun c hc => let ⟨b, hb, _⟩ := hahead c hc; h b hb
  | some a =>
    obtain ⟨ha, hmin⟩ := h
    exact ⟨hsub a ha, fun c hc => let ⟨b, hb, hbc⟩ := hahead c hc; (hmin b hb).trans hbc⟩

theorem readyKey_cons_zero {sl : Slot} {rest : List Slot} {key : Nat} :
    ReadyKey (sl :: rest) 0 key ↔ sl.state = .ready ∧ ∃ m, sl.info = some m ∧ selectKey m = key := by
  simp [ReadyKey]

theorem readyKey_cons_succ {sl : Slot} {rest : List Slot} {j key : Nat} :
    ReadyKey (sl :: rest) (j + 1) key ↔ ReadyKey rest j key := by
  simp [ReadyKey]

/-- The candidates of a list are those of its tail and its first slot. -/
theorem candidate_cons {sl : Slot} {rest : List Slot} {i : Nat} {best : Option (Nat × Nat)} {c : Nat × Nat} :
    Candidate (sl :: rest) i best c ↔
      Candidate rest (i + 1) best c ∨ (c.1 = i ∧ sl.state = .ready ∧ ∃ m, sl.info = some m ∧ selectKey m = c.2) := by
  have hsplit : (∃ j, c.1 = i + j ∧ ReadyKey (sl :: rest) j c.2) ↔
      (∃ j, c.1 = i + 1 + j ∧ ReadyKey rest j c.2) ∨ (c.1 = i ∧ ReadyKey (sl :: rest) 0 c.2) := by
    constructor
    · rintro ⟨_ | j, hj, hkey⟩
      · exact .inr ⟨hj, hkey⟩
      · exact .inl ⟨j, by omega, readyKey_cons_succ.1 hkey⟩
    · rintro (⟨j, hj, hkey⟩ | ⟨hj, hkey⟩)
      · exact ⟨j + 1, by omega, readyKey_cons_succ.2 hkey⟩
      · exact ⟨0, hj, hkey⟩
  rw [Candidate, hsplit, readyKey_cons_zero, Candidate, or_assoc]

/-- Weighing the first slot against the best so far: the one kept stands for both. -/
theorem Leads.of_kept {sl : Slot} {rest : List Slot} {i : Nat} {m : SlotMeta} {b : Nat × Nat}
    {best r : Option (Nat × Nat)} (h : Leads (Candidate rest (i + 1) (some b)) r) (hm : sl.info = some m)
    (hb : Candidate (sl :: rest) i best b) (hbest : ∀ c, best = some c → Ahead b c) (hfirst : Ahead b (i, selectKey m)) :
    Leads (Candidate (sl :: rest) i best) r := by
  refine h.mono (fun c hc => ?_) fun c hc => ?_
  · rcases hc with e | hrest
    · exact Option.some_inj.1 e ▸ hb
    · exact candidate_cons.2 (.inl (.inr hrest))
  · rcases candidate_cons.1 hc with (e | hrest) | ⟨hi, -, m', hm', hkey⟩
    · exact ⟨b, .inl rfl, hbest c e⟩
    · exact ⟨c, .inr hrest, .refl c⟩
    · cases hm.symm.trans hm'
      obtain rfl : c = (i, selectKey m) := Prod.ext hi hkey.symm
      exact ⟨b, .inl rfl, hfirst⟩

/-- The scan of the pool answers the first candidate, the best so far having a lower index than the slots to come. -/
theorem leastKey_leads {slots : List Slot} {i : Nat} {best r : Option (Nat × Nat)} (h : leastKey slots i best = some r)
    (hbest : ∀ b, best = some b → b.1 ≤ i) : Leads (Candidate slots i best) r := by
  induction slots generalizing i best with
  | nil =>
    cases h
    cases r with
    | none => simp [Leads, Candidate, ReadyKey]
    | some b => simpa [Leads, Candidate, ReadyKey] using Ahead.refl b
  | cons sl rest ih =>
    unfold leastKey at h
    split at h
    · next hst =>
      split at h
      · cases h
      · next m hm =>
        have hnew : Candidate (sl :: rest) i best (i, selectKey m) := candidate_cons.2 (.inr ⟨rfl, hst, m, hm, rfl⟩)
        split at h
        · exact (ih h (by simp)).of_kept hm hnew (by simp) (.refl _)
        · next j k =>
          have hj : j ≤ i := hbest (j, k) rfl
          split at h
          · next hlt => exact (ih h (by simp)).of_kept hm hnew (by simp [Ahead]; omega) (.refl _)
          · next hle =>
            exact (ih h (by simp; omega)).of_kept hm (.inl rfl) (by simp [Ahead]) (by simp [Ahead]; omega)
    · next hst =>
      exact (ih h fun b hb => Nat.le_succ_of_le (hbest b hb)).mono (fun c hc => candidate_cons.2 (.inl hc)) fun c hc =>
        ⟨c, (candidate_cons.1 hc).resolve_right fun ⟨_, e, _⟩ => hst e, .refl c⟩

/-- The candidates among the whole pool are its `Ready` slots. -/
theorem candidate_pool {slots : List Slot} {c : Nat × Nat} : Candidate slots 0 none c ↔ ReadyKey slots c.1 c.2 := by
  simp [Candidate]

theorem selectSlot_weighted {c : Config} {slots : List Slot} (h : c.policy = .weighted) :
    selectSlot c slots = (leastKey slots 0 none).map fun best => best.map (·.1) := by
  simp [selectSlot, h]

theorem selectSlot_firstReady {c : Config} {slots : List Slot} (h : c.policy = .firstReady) :
    selectSlot c slots = some (slots.findIdx? (fun sl => sl.state = .ready)) := by
  simp [selectSlot, h]

/-- Under WEIGHTED no `Ready` slot is ahead of the selected one (43_pool R127). -/
theorem selectSlot_weighted_ahead {c : Config} {slots : List Slot} {k : Nat} (hp : c.policy = .weighted)
    (h : selectSlot c slots = some (some k)) :
    ∃ key, ReadyKey slots k key ∧ ∀ j key', ReadyKey slots j key' → Ahead (k, key) (j, key') := by
  rw [selectSlot_weighted hp] at h
  simp only [Option.map_eq_some_iff] at h
  obtain ⟨_, hleast, ⟨k', key⟩, rfl, rfl⟩ := h
  obtain ⟨hkey, hmin⟩ := leastKey_leads hleast (by simp)
  exact ⟨key, candidate_pool.1 hkey, fun j key' hj => hmin (j, key') (candidate_pool.2 hj)⟩

/-- The selection finds none exactly where no slot is `Ready`. -/
theorem selectSlot_eq_none_iff {c : Config} {slots : List Slot} :
    selectSlot c slots = some none ↔ ∀ sl ∈ slots, sl.state ≠ .ready := by
  constructor
  · intro h
    cases hp : c.policy with
    | weighted =>
      rw [selectSlot_weighted hp] at h
      simp only [Option.map_eq_some_iff, Option.map_eq_none_iff] at h
      obtain ⟨_, hleast, rfl⟩ := h
      intro sl hsl hst
      obtain ⟨m, hm⟩ := Option.isSome_iff_exists.1 (leastKey_info hleast sl hsl hst)
      obtain ⟨j, hj⟩ := List.mem_iff_getElem?.1 hsl
      exact leastKey_leads hleast (by simp) (j, selectKey m) (candidate_pool.2 ⟨sl, m, hj, hst, hm, rfl⟩)
    | firstReady =>
      rw [selectSlot_firstReady hp, Option.some_inj] at h
      exact findIdx_state_eq_none_iff.1 h
  · intro h
    refine (selectSlot_defined fun sl hsl hst => absurd hst (h sl hsl)).resolve_right ?_
    rintro ⟨k, sl, -, hk, hst⟩
    exact h sl (List.mem_of_getElem? hk) hst

/-- Settles O34: the selection is defined (`selectSlot_defined`); WEIGHTED by the scan (`selectSlot_weighted_ahead`),
FIRST_READY by the search (`findIdx_state_eq_some_iff`). -/
theorem selectionIsLeastKey : Obligations.SelectionIsLeastKey := by
  intro c slots hinfo
  rcases selectSlot_defined (c := c) hinfo with e | ⟨k, sl, e, hk, hst⟩
  · exact ⟨none, e, ⟨fun _ => selectSlot_eq_none_iff.1 e, fun _ => rfl⟩, by simp⟩
  · have hsl : sl ∈ slots := List.mem_of_getElem? hk
    obtain ⟨m, hm⟩ := Option.isSome_iff_exists.1 (hinfo sl hsl hst)
    refine ⟨some k, e, ⟨by simp, fun hno => absurd hst (hno sl hsl)⟩, ?_⟩
    rintro _ ⟨⟩
    refine ⟨sl, m, hk, hst, hm, fun hp j slj mj hj hstj hmj => ?_, fun hp => ?_⟩
    · obtain ⟨_, ⟨sl', m', hk', -, hm', rfl⟩, hmin⟩ := selectSlot_weighted_ahead hp e
      cases hk.symm.trans hk'
      cases hm.symm.trans hm'
      exact hmin j _ ⟨slj, mj, hj, hstj, hmj, rfl⟩
    · rw [selectSlot_firstReady hp, Option.some_inj] at e
      exact (findIdx_state_eq_some_iff.1 e).2

/-! ## The pool commands past the preamble -/

/-- A command of format FS passes the preamble of a running block on its port with a slot of the pool (30_encoding R76). -/
theorem exec_of_slot {i : Instr} {s : State} {slot : BitVec 8} (hfirst : stepOf i s = 1) (hrun : s.bstate = .run)
    (hport : allowedOn i s.issuer = true) (hslot : slotOperand i = some slot) (hN : slot.toNat < s.cfg.slotCount) :
    exec i s = settle i 1 s (bodyOf i s) :=
  exec_of_pass hfirst hrun hport (by simpa [badSlotOperand, hslot] using hN)

theorem State.producerHolds_eq_false {s : State} {k : Nat} (h : s.ph ≠ some k ∨ s.slotState k ≠ some .filling) :
    s.producerHolds k = false := by
  rw [← Bool.not_eq_true, State.producerHolds_iff]
  tauto

theorem State.consumerHolds_eq_false {s : State} {k : Nat} (h : s.ch ≠ some k ∨ s.slotState k ≠ some .displaying) :
    s.consumerHolds k = false := by
  rw [← Bool.not_eq_true, State.consumerHolds_iff]
  tauto

section
variable {s : State} {k : Nat} {sl : Slot}

/-- The PRODUCER holds slot `k`, which is `sl`. -/
theorem State.producerHolds_of_slot (hph : s.ph = some k) (hsl : s.slots[k]? = some sl) (hst : sl.state = .filling) :
    s.producerHolds k = true :=
  State.producerHolds_iff.2 ⟨hph, State.slotState_eq_some.2 ⟨sl, hsl, hst⟩⟩

/-- The CONSUMER holds slot `k`, which is `sl`. -/
theorem State.consumerHolds_of_slot (hch : s.ch = some k) (hsl : s.slots[k]? = some sl) (hst : sl.state = .displaying) :
    s.consumerHolds k = true :=
  State.consumerHolds_iff.2 ⟨hch, State.slotState_eq_some.2 ⟨sl, hsl, hst⟩⟩

theorem poolAcquire_claims (hph : s.ph = none) (hf : firstFree s.slots = some k) : poolAcquire s =
    .done .ok (.slot k)
      { s with slots := s.slots.modify k (fun sl => { sl with state := .filling, filled := false }), ph := some k } := by
  simp [poolAcquire, hph, hf, State.updateSlot]

theorem poolAcquire_exhausted (hph : s.ph = none) (hf : firstFree s.slots = none) :
    poolAcquire s = .done .exhausted .none { s with cntDrop := s.cntDrop + 1#32 } := by
  simp [poolAcquire, hph, hf]

theorem poolAcquire_badState (hph : s.ph ≠ none) : poolAcquire s = .raise .badState := if_pos hph

theorem poolCommit_publishes (hholds : s.producerHolds k = true) (hsl : s.slots[k]? = some sl)
    (hfilled : sl.filled = true) : poolCommit k s =
      .done .ok (.slot k) { s with slots := s.slots.set k { sl with state := .ready }, ph := none } := by
  simp [poolCommit, hholds, hsl, hfilled, State.updateSlot_eq_set hsl]

theorem poolCommit_badState (h : s.ph ≠ some k ∨ s.slotState k ≠ some .filling ∨
    ∃ sl, s.slots[k]? = some sl ∧ sl.filled = false) : poolCommit k s = .raise .badState := by
  rcases or_assoc.2 h with hnot | ⟨sl, hsl, hunfilled⟩
  · simp [poolCommit, State.producerHolds_eq_false hnot]
  · simp [poolCommit, hsl, hunfilled]

theorem poolAbort_frees (hholds : s.producerHolds k = true) (hsl : s.slots[k]? = some sl) : poolAbort k s =
    .done .ok (.slot k) { s with slots := s.slots.set k { sl with state := .free, filled := false }, ph := none } := by
  simp [poolAbort, hholds, State.updateSlot_eq_set hsl]

theorem poolAbort_badState (h : s.producerHolds k = false) : poolAbort k s = .raise .badState := by
  simp [poolAbort, h]

theorem poolRelease_frees (hholds : s.consumerHolds k = true) (hsl : s.slots[k]? = some sl) : poolRelease k s =
    .done .ok (.slot k) { s with slots := s.slots.set k { sl with state := .free }, ch := none } := by
  simp [poolRelease, hholds, State.updateSlot_eq_set hsl]

theorem poolRelease_badState (h : s.consumerHolds k = false) : poolRelease k s = .raise .badState := by
  simp [poolRelease, h]

theorem poolSelect_takes {m : SlotMeta} (hch : s.ch = none) (hsel : selectSlot s.cfg s.slots = some (some k))
    (hsl : s.slots[k]? = some sl) (hm : sl.info = some m) : poolSelect s =
      .done .ok (.band k m.frameId m.srcY0)
        { s with slots := s.slots.set k { sl with state := .displaying }, ch := some k } := by
  simp [poolSelect, hch, hsel, hsl, hm, State.updateSlot_eq_set hsl]

theorem poolSelect_empty (hch : s.ch = none) (hsel : selectSlot s.cfg s.slots = some none) :
    poolSelect s = .done .empty .none s := by
  simp [poolSelect, hch, hsel]

theorem poolSelect_badState (hch : s.ch ≠ none) : poolSelect s = .raise .badState := if_pos hch

end

/-- Settles O30: the slot claimed is `firstFree` (`firstFree_eq_some_iff`). -/
theorem poolAcquireAnswers : Obligations.PoolAcquireAnswers := by
  intro s hrun hport
  have hexec : exec .poolAcquire s = settle .poolAcquire 1 s (poolAcquire s) :=
    exec_of_pass rfl hrun (by simp [allowedOn, hport]) rfl
  rw [hexec]
  refine ⟨fun k hph hfree hleast => ?_, fun hph hfull => ?_, fun hph => ?_⟩
  · rw [poolAcquire_claims hph (firstFree_eq_some_iff.2 ⟨hfree, hleast⟩)]; rfl
  · rw [poolAcquire_exhausted hph (firstFree_eq_none_iff.2 hfull)]; rfl
  · rw [poolAcquire_badState hph]; rfl

/-- Settles O32: a filled slot by `poolCommit_publishes`, any other by `poolCommit_badState`. -/
theorem poolCommitAnswers : Obligations.PoolCommitAnswers := by
  intro s slot hrun hport hN
  have hexec : exec (.poolCommit slot) s = settle (.poolCommit slot) 1 s (poolCommit slot.toNat s) :=
    exec_of_slot rfl hrun (by simp [allowedOn, hport]) rfl hN
  rw [hexec]
  refine ⟨fun sl hph hsl hst hfilled => ?_, fun h => by rw [poolCommit_badState h]; rfl⟩
  rw [poolCommit_publishes (State.producerHolds_of_slot hph hsl hst) hsl hfilled]; rfl

/-- Settles O33: each of the two commands frees the slot its port holds and faults on any other; the next state is written
out, counters and all. -/
theorem abortAndReleaseFreeTheSlot : Obligations.AbortAndReleaseFreeTheSlot := by
  intro s slot hrun hN
  refine ⟨fun hport => ?_, fun hport => ?_⟩
  · have hexec : exec (.poolAbort slot) s = settle (.poolAbort slot) 1 s (poolAbort slot.toNat s) :=
      exec_of_slot rfl hrun (by simp [allowedOn, hport]) rfl hN
    rw [hexec]
    refine ⟨fun sl hph hsl hst => ?_, fun h => ?_⟩
    · rw [poolAbort_frees (State.producerHolds_of_slot hph hsl hst) hsl]; rfl
    · rw [poolAbort_badState (State.producerHolds_eq_false h)]; rfl
  · have hexec : exec (.poolRelease slot) s = settle (.poolRelease slot) 1 s (poolRelease slot.toNat s) :=
      exec_of_slot rfl hrun (by simp [allowedOn, hport]) rfl hN
    rw [hexec]
    refine ⟨fun sl hch hsl hst => ?_, fun h => ?_⟩
    · rw [poolRelease_frees (State.consumerHolds_of_slot hch hsl hst) hsl]; rfl
    · rw [poolRelease_badState (State.consumerHolds_eq_false h)]; rfl

/-- Settles O35: with no `Ready` slot the selection is none (`selectSlot_eq_none_iff`). -/
theorem poolSelectAnswers : Obligations.PoolSelectAnswers := by
  intro s hrun hport
  have hexec : exec .poolSelect s = settle .poolSelect 1 s (poolSelect s) :=
    exec_of_pass rfl hrun (by simp [allowedOn, hport]) rfl
  rw [hexec]
  refine ⟨fun k sl m hch hsel hsl hm => ?_, fun hch hno => ?_, fun hch => ?_⟩
  · rw [poolSelect_takes hch hsel hsl hm]; rfl
  · rw [poolSelect_empty hch (selectSlot_eq_none_iff.2 (State.forall_slotState_ne.1 hno))]; rfl
  · rw [poolSelect_badState hch]; rfl

/-! ## What each port's commands leave alone (43_pool R122, R132) -/

/-- What the commands of the PRODUCER leave alone: the CONSUMER's and the ENGINE's state, and every slot that the PRODUCER
holds neither before nor after. -/
def KeepsConsumerState (s u : State) : Prop :=
  u.ch = s.ch ∧ u.abi = s.abi ∧ u.xfBusy = s.xfBusy ∧ u.xfDesc = s.xfDesc ∧ u.clatch = s.clatch ∧
    u.cntOverflow = s.cntOverflow ∧ u.obuf = s.obuf ∧ u.obufRows = s.obufRows ∧ u.panel = s.panel ∧
    ∀ k : Nat, s.ph ≠ some k → u.ph ≠ some k → u.slots[k]? = s.slots[k]?

/-- What the commands of the CONSUMER leave alone: the PRODUCER's and the TRANSPORT's state, and every slot that the
CONSUMER holds neither before nor after. -/
def KeepsProducerState (s u : State) : Prop :=
  u.ph = s.ph ∧ u.rxq = s.rxq ∧ u.rxd = s.rxd ∧ u.cntDrop = s.cntDrop ∧ u.cntMalformed = s.cntMalformed ∧
    u.cntShort = s.cntShort ∧ ∀ k : Nat, s.ch ≠ some k → u.ch ≠ some k → u.slots[k]? = s.slots[k]?

theorem KeepsConsumerState.refl (s : State) : KeepsConsumerState s s :=
  ⟨rfl, rfl, rfl, rfl, rfl, rfl, rfl, rfl, rfl, fun _ _ _ => rfl⟩

theorem KeepsProducerState.refl (s : State) : KeepsProducerState s s :=
  ⟨rfl, rfl, rfl, rfl, rfl, rfl, fun _ _ _ => rfl⟩

theorem State.updateSlot_getElem?_ne (s : State) {i j : Nat} (h : i ≠ j) (f : Slot → Slot) :
    (s.updateSlot i f).slots[j]? = s.slots[j]? := by
  simp [h]

/-- An update of the slot a handle names leaves the slots that it does not name. -/
theorem State.updateSlot_getElem?_of_handle (s : State) {i : Nat} {handle : Option Nat} (h : handle = some i) {k : Nat}
    (hk : handle ≠ some k) (f : Slot → Slot) : (s.updateSlot i f).slots[k]? = s.slots[k]? :=
  s.updateSlot_getElem?_ne (fun e => hk (h.trans (congrArg some e))) f

/-- The writes of the PRODUCER's commands: its own registers, the slot it claims and the slot it holds. -/
theorem Effect.keepsConsumerState {i : Instr} {s u : State} (e : Effect i s u) (hi : allowedOn i .producer = true) :
    KeepsConsumerState s u := by
  cases e
  case same | poll | discard | drop | short => exact .refl s
  case claim =>
    exact ⟨rfl, rfl, rfl, rfl, rfl, rfl, rfl, rfl, rfl, fun k _ hk => s.updateSlot_getElem?_of_handle rfl hk _⟩
  case fill hp _ _ _ _ _ | commit hp _ _ | abort hp _ =>
    obtain ⟨hph, -⟩ := State.producerHolds_iff.1 hp
    exact ⟨rfl, rfl, rfl, rfl, rfl, rfl, rfl, rfl, rfl, fun k hk _ => s.updateSlot_getElem?_of_handle hph hk _⟩
  case select h _ _ _ => rcases h with rfl | rfl <;> simp [allowedOn] at hi
  case overflow h _ | band h _ _ _ _ _ | release h _ =>
    rcases h with rfl | ⟨_, rfl⟩ | ⟨_, rfl⟩ <;> simp [allowedOn] at hi
  case push h _ _ => rcases h with rfl | ⟨_, _, rfl⟩ | ⟨_, rfl⟩ <;> simp [allowedOn] at hi

/-- The writes of the CONSUMER's commands: its own registers and buffers, the slot it selects and the slot it holds. -/
theorem Effect.keepsProducerState {i : Instr} {s u : State} (e : Effect i s u) (hi : allowedOn i .consumer = true) :
    KeepsProducerState s u := by
  cases e
  case same | overflow | band | push => exact .refl s
  case select => exact ⟨rfl, rfl, rfl, rfl, rfl, rfl, fun k _ hk => s.updateSlot_getElem?_of_handle rfl hk _⟩
  case release hc =>
    obtain ⟨hch, -⟩ := State.consumerHolds_iff.1 hc
    exact ⟨rfl, rfl, rfl, rfl, rfl, rfl, fun k hk _ => s.updateSlot_getElem?_of_handle hch hk _⟩
  case discard h => subst h; simp [allowedOn] at hi
  case poll h _ | claim h _ _ | drop h _ _ _ => rcases h with rfl | rfl <;> simp [allowedOn] at hi
  case short h | fill h _ _ _ _ _ _ | commit h _ _ _ | abort h _ _ =>
    rcases h with rfl | ⟨_, rfl⟩ <;> simp [allowedOn] at hi

theorem Effect.result {i : Instr} {s u : State} (e : Effect i s u) : u.result = s.result := by
  cases e <;> rfl

/-- A command writes no port but the issuing one. -/
theorem exec_otherPorts {i : Instr} {s t : State} (h : exec i s = .next t) {p : Port} (hp : p ≠ s.issuer) :
    t.port.get p = s.port.get p ∧ t.result.get p = s.result.get p := by
  rcases exec_next h with ⟨u, code, data, hu, rfl⟩ | ⟨u, ps, hu, rfl⟩ | ⟨c, rfl⟩
  · obtain ⟨hport, hissuer⟩ := hu.port
    simp [hport, hissuer, hu.result, PerPort.get_set_ne _ hp]
  · obtain ⟨hport, hissuer⟩ := hu.port
    simp [hport, hissuer, hu.result, PerPort.get_set_ne _ hp]
  · simp [PerPort.get_set_ne _ hp]

/-- Settles O48: the effects of each side's commands, and the issuing port alone. -/
theorem portsWriteOnlyTheirOwn : Obligations.PortsWriteOnlyTheirOwn := by
  intro i s t h
  have hports : ∀ p, p ≠ s.issuer → t.port.get p = s.port.get p ∧ t.result.get p = s.result.get p :=
    fun _ hp => exec_otherPorts h hp
  rcases exec_next h with ⟨u, code, data, hu, rfl⟩ | ⟨u, ps, hu, rfl⟩ | ⟨c, rfl⟩
  · exact ⟨hu.keepsConsumerState, hu.keepsProducerState, hports⟩
  · exact ⟨hu.keepsConsumerState, hu.keepsProducerState, hports⟩
  · exact ⟨fun _ => KeepsConsumerState.refl s, fun _ => KeepsProducerState.refl s, hports⟩

/-! ## The slot transitions (43_pool R121) -/

/-- A slot stays in its state, or makes one of the five transitions of R121 by a command of this opcode. -/
def SlotMove (op : BitVec 8) (a b : SlotState) : Prop :=
  a = b ∨
  (a = .free ∧ b = .filling ∧ op ∈ [0x40#8, 0x70#8]) ∨
  (a = .filling ∧ b = .ready ∧ op ∈ [0x42#8, 0x70#8]) ∨
  (a = .filling ∧ b = .free ∧ op ∈ [0x43#8, 0x70#8]) ∨
  (a = .ready ∧ b = .displaying ∧ op ∈ [0x44#8, 0x71#8]) ∨
  (a = .displaying ∧ b = .free ∧ op ∈ [0x45#8, 0x52#8, 0x71#8])

/-- Every slot of `u` is in the state it has in `s` or has moved from it. -/
def SlotsMove (op : BitVec 8) (s u : State) : Prop :=
  ∀ (k : Nat) (a b : SlotState), s.slotState k = some a → u.slotState k = some b → SlotMove op a b

theorem SlotsMove.of_kept {op : BitVec 8} {s u : State} (h : ∀ k, u.slotState k = s.slotState k) : SlotsMove op s u :=
  fun k _ _ ha hb => .inl (Option.some_inj.1 (ha.symm.trans ((h k).symm.trans hb)))

/-- An update of one slot that moves it as R121 allows. -/
theorem SlotsMove.of_updateSlot {op : BitVec 8} {s : State} {k : Nat} {x y : SlotState} {f : Slot → Slot}
    (hk : s.slotState k = some x) (hf : ∀ sl, (f sl).state = y) (hmove : SlotMove op x y) :
    SlotsMove op s (s.updateSlot k f) := by
  intro j a b ha hb
  rw [State.slotState_move hk hf] at hb
  split at hb
  · next hj =>
    subst hj
    cases hk.symm.trans ha
    cases hb
    exact hmove
  · cases ha.symm.trans hb
    exact .inl rfl

/-- Each effect that moves a slot has found it in the state its transition starts from. -/
theorem Effect.slotsMove {i : Instr} {s u : State} (e : Effect i s u) : SlotsMove i.opcode s u := by
  cases e
  case same | poll | discard | drop | short | overflow | band | push => exact .of_kept fun _ => rfl
  case fill k d hdr _ _ _ _ _ _ _ => exact .of_kept (s.slotState_fill k hdr d)
  case claim hi _ hf =>
    refine SlotsMove.of_updateSlot (y := .filling) (firstFree_slotState hf) (fun _ => rfl) ?_
    rcases hi with rfl | rfl <;> simp [SlotMove, Instr.opcode]
  case commit hi hp _ _ =>
    refine SlotsMove.of_updateSlot (y := .ready) (State.producerHolds_iff.1 hp).2 (fun _ => rfl) ?_
    rcases hi with rfl | ⟨slot, rfl⟩ <;> simp [SlotMove, Instr.opcode]
  case abort hi hp _ =>
    refine SlotsMove.of_updateSlot (y := .free) (State.producerHolds_iff.1 hp).2 (fun _ => rfl) ?_
    rcases hi with rfl | ⟨slot, rfl⟩ <;> simp [SlotMove, Instr.opcode]
  case select hi _ hs _ =>
    refine SlotsMove.of_updateSlot (y := .displaying) (selectSlot_slotState hs) (fun _ => rfl) ?_
    rcases hi with rfl | rfl <;> simp [SlotMove, Instr.opcode]
  case release hi hc =>
    refine SlotsMove.of_updateSlot (y := .free) (State.consumerHolds_iff.1 hc).2 (fun _ => rfl) ?_
    rcases hi with rfl | ⟨slot, rfl⟩ | ⟨slot, rfl⟩ <;> simp [SlotMove, Instr.opcode]

/-- Settles O49: the effects alone write slots (`Effect.slots_length`, `Effect.slotsMove`). -/
theorem slotTransitionsAreTheFive : Obligations.SlotTransitionsAreTheFive := by
  intro i s t h
  rcases exec_next h with ⟨u, code, data, hu, rfl⟩ | ⟨u, ps, hu, rfl⟩ | ⟨c, rfl⟩
  · exact ⟨hu.slots_length, hu.slotsMove⟩
  · exact ⟨hu.slots_length, hu.slotsMove⟩
  · exact ⟨rfl, SlotsMove.of_kept (u := s.faultEntry c) fun _ => rfl⟩

end Sys2Proof.Machine
end

section
/-! The transfer family (44_transfer), the single commands and the ENGINE: XFA_PUSH and XFA_WAIT by their pseudocode past the
preamble, the retire step, and what every command leaves alone of the active buffer and of a transfer in flight. -/

namespace Sys2Proof.Machine

open Sys2Proof.Safety

/-! ## XFA_WAIT (44_transfer R137) -/

/-- XFA_WAIT on its own port of a running block is its pseudocode. -/
theorem exec_xfaWait {s : State} (hrun : s.bstate = .run) (hport : s.issuer = .consumer) :
    exec .xfaWait s = settle .xfaWait 1 s (xfaWait s) :=
  exec_of_pass rfl hrun (by simp [allowedOn, hport]) rfl

theorem exec_xfaWait_idle {s : State} (hrun : s.bstate = .run) (hport : s.issuer = .consumer) (hx : s.xfBusy = false) :
    exec .xfaWait s = .next (s.finish .ok .none) := by
  rw [exec_xfaWait hrun hport, xfaWait, hx]
  rfl

theorem exec_xfaWait_busy {s : State} (hrun : s.bstate = .run) (hport : s.issuer = .consumer) (hx : s.xfBusy = true) :
    exec .xfaWait s = .next (s.setPortState { cmd := some .xfaWait, step := 1, sub := s.portState.sub }) := by
  rw [exec_xfaWait hrun hport, xfaWait, hx]
  rfl

/-- Settles O37: by `XF_BUSY`. -/
theorem xfaWaitAnswers : Obligations.XfaWaitAnswers := by
  refine fun s hrun hport => ⟨exec_xfaWait_idle hrun hport, fun hx => ?_⟩
  rw [exec_xfaWait_busy hrun hport hx, State.setPortState, State.portState, hport]
  rfl

/-! ## XFA_PUSH (44_transfer R136, R139) -/

/-- The transfer of panel rows `y .. y+h-1` from the inactive buffer, issued: that buffer is now the active one, and the
pushed panel rows are `undef` until the retire. -/
def State.pushed (s : State) (y h : Nat) : State :=
  { s with
    xfDesc := { y := BitVec.ofNat 8 y, h := BitVec.ofNat 8 h, buf := !s.abi }
    xfBusy := true
    abi := !s.abi
    panel := Sparse.erase s.panel (240 * y) (240 * h) }

theorem exec_xfaPush {s : State} (hrun : s.bstate = .run) (hport : s.issuer = .consumer) (h : BitVec 8) (y : Half) :
    exec (.xfaPush h y) s = settle (.xfaPush h y) 1 s (xfaPush y.toNat h.toNat s) :=
  exec_of_pass rfl hrun (by simp [allowedOn, hport]) rfl

theorem xfaPush_pushes {s : State} {y h : Nat} (hx : s.xfBusy = false) (hb : badRectangle s y h = false) :
    xfaPush y h s = .done .ok (.buf (!s.abi)) (s.pushed y h) := by
  simp [xfaPush, hx, hb, State.pushed]

theorem xfaPush_xferBusy {s : State} (hx : s.xfBusy = true) (y h : Nat) : xfaPush y h s = .raise .xferBusy := by
  simp [xfaPush, hx]

theorem xfaPush_badOperand {s : State} {y h : Nat} (hx : s.xfBusy = false) (hb : badRectangle s y h = true) :
    xfaPush y h s = .raise .badOperand := by
  simp [xfaPush, hx, hb]

theorem badRectangle_eq_true {s : State} {y h : Nat} : badRectangle s y h = true ↔
    239 < y ∨ h = 0 ∨ 240 < y + h ∨ s.cfg.outRows < h ∨ (s.obufRows.get (!s.abi)).toNat < h := by
  simp [badRectangle, or_assoc]

/-- The panel after a push: the pushed rows are `undef`, every other pixel is as before. -/
theorem read_pushed_panel (s : State) (y h a : Nat) : Sparse.read (s.pushed y h).panel a =
    if 240 * y ≤ a ∧ a < 240 * (y + h) then none else Sparse.read s.panel a := by
  rw [State.pushed, Sparse.read_erase, Nat.mul_add]
  by_cases hin : 240 * y ≤ a ∧ a < 240 * y + 240 * h
  · rw [if_pos hin, if_neg (by omega)]
  · rw [if_neg hin, if_pos (by omega)]

/-- Settles O36: the rectangle of R136 by `badRectangle_eq_false`, the pushed panel rows by `read_pushed_panel`. -/
theorem xfaPushAnswers : Obligations.XfaPushAnswers := by
  intro s h y hrun hport
  rw [exec_xfaPush hrun hport]
  refine ⟨fun hx hy hpos hpanel hrows hdrawn => ?_, fun hx => ?_, fun hx hbad => ?_⟩
  · refine ⟨_, read_pushed_panel s y.toNat h.toNat, ?_⟩
    rw [xfaPush_pushes hx (badRectangle_eq_false.2 ⟨hy, hpos, hpanel, hrows, hdrawn⟩)]
    simp only [settle, State.pushed, BitVec.ofNat_toNat, BitVec.setWidth_eq]
  · rw [xfaPush_xferBusy hx]; rfl
  · rw [xfaPush_badOperand hx (badRectangle_eq_true.2 hbad)]; rfl

/-! ## The ENGINE's retire step (44_transfer R138, R139) -/

/-- The transfer in flight has retired: the panel rows of its descriptor take `pixels`. -/
def State.retired (s : State) (pixels : List Half) : State :=
  { s with panel := Sparse.write s.panel (240 * s.xfDesc.y.toNat) pixels, xfBusy := false }

theorem engineRetire_idle {s : State} (hx : s.xfBusy = false) : engineRetire s = .next s := by
  simp [engineRetire, hx]

theorem engineRetire_retires {s : State} {pixels : List Half} (hx : s.xfBusy = true)
    (hpanel : s.xfDesc.y.toNat + s.xfDesc.h.toNat ≤ 240)
    (hpx : bufferPixels s.cfg.pixelOrder (s.obuf.get s.xfDesc.buf) s.xfDesc.h.toNat = some pixels) :
    engineRetire s = .next (s.retired pixels) := by
  simp [engineRetire, hx, Nat.not_lt.2 hpanel, hpx, State.retired]

/-- An ENGINE turn with a transfer of written rows in flight retires it. -/
theorem step_engine_retires {s : State} {turns : List Turn} {pixels : List Half} (hw : s.cfg.wellFormed = true)
    (ht : s.turns = .engine :: turns) (hx : s.xfBusy = true) (hpanel : s.xfDesc.y.toNat + s.xfDesc.h.toNat ≤ 240)
    (hpx : bufferPixels s.cfg.pixelOrder (s.obuf.get s.xfDesc.buf) s.xfDesc.h.toNat = some pixels) :
    step s = .next (State.retired { s with turns := turns } pixels) := by
  rw [step_of_turn hw ht]
  exact engineRetire_retires hx hpanel hpx

/-- Pixel `(r, c)` of the buffer stands at place `240 · r + c` of its rows. -/
theorem getElem?_bufferPixels {o : ByteOrder} {m : Memory} {h r c : Nat} {pixels : List Half}
    (hpx : bufferPixels o m h = some pixels) (hr : r < h) (hc : c < 240) :
    pixels[240 * r + c]? = readPixel o m (2 * (240 * r + c)) :=
  getElem?_of_allDefined hpx (by omega)

section
variable {s : State} {pixels : List Half}
  (hpx : bufferPixels s.cfg.pixelOrder (s.obuf.get s.xfDesc.buf) s.xfDesc.h.toNat = some pixels)
include hpx

theorem bufferPixels_length : pixels.length = 240 * s.xfDesc.h.toNat := by
  simpa using allDefined_length hpx

/-- The retired rectangle takes the pixels of the buffer. -/
theorem read_retired_inside {r c : Nat} (hr : r < s.xfDesc.h.toNat) (hc : c < 240) :
    (Sparse.read (s.retired pixels).panel (240 * (s.xfDesc.y.toNat + r) + c)).isSome ∧
      Sparse.read (s.retired pixels).panel (240 * (s.xfDesc.y.toNat + r) + c) =
        readPixel s.cfg.pixelOrder (s.obuf.get s.xfDesc.buf) (2 * (240 * r + c)) := by
  have hlen := bufferPixels_length hpx
  have hread : Sparse.read (s.retired pixels).panel (240 * (s.xfDesc.y.toNat + r) + c) = pixels[240 * r + c]? := by
    rw [State.retired, Sparse.read_write_inside (by omega) (by omega),
      show 240 * (s.xfDesc.y.toNat + r) + c - 240 * s.xfDesc.y.toNat = 240 * r + c by omega]
  refine ⟨?_, hread.trans (getElem?_bufferPixels hpx hr hc)⟩
  rw [hread, List.getElem?_eq_getElem (by omega)]
  rfl

/-- Every pixel outside the rectangle keeps its value. -/
theorem read_retired_outside {a : Nat}
    (ha : a < 240 * s.xfDesc.y.toNat ∨ 240 * (s.xfDesc.y.toNat + s.xfDesc.h.toNat) ≤ a) :
    Sparse.read (s.retired pixels).panel a = Sparse.read s.panel a :=
  Sparse.read_write_outside (by rw [bufferPixels_length hpx]; omega)

end

/-- Settles O38: the buffer's rows are defined (`bufferPixels_defined`), and the panel reads as `read_retired_inside` and
`read_retired_outside` say. -/
theorem retireWritesThePanel : Obligations.RetireWritesThePanel := by
  intro s turns hw ht
  refine ⟨fun hx hpanel hbytes => ?_, fun hx => ?_⟩
  · obtain ⟨pixels, hpx⟩ := bufferPixels_defined (o := s.cfg.pixelOrder) hbytes
    exact ⟨_, step_engine_retires hw ht hx hpanel hpx, fun _ _ => read_retired_inside hpx,
      fun _ => read_retired_outside hpx⟩
  · rw [step_of_turn hw ht]
    exact engineRetire_idle hx

/-- A transfer in flight of a sound state names rows of the panel, and written rows of its buffer. -/
theorem transferOk_inFlight {s : State} (h : TransferOk s) (hx : s.xfBusy = true) :
    s.xfDesc.y.toNat + s.xfDesc.h.toNat ≤ 240 ∧
      ∃ pixels, bufferPixels s.cfg.pixelOrder (s.obuf.get s.xfDesc.buf) s.xfDesc.h.toNat = some pixels := by
  obtain ⟨hflight, hrows⟩ := (transferOk_iff s).1 h
  obtain ⟨hbuf, -, hh, hpanel⟩ := hflight hx
  obtain ⟨-, hwritten⟩ := hrows s.abi
  exact ⟨hpanel, bufferPixels_defined fun k hk => hbuf ▸ hwritten k (by omega)⟩

/-- A CONSUMER turn completes a wait in progress once no transfer is in flight. -/
theorem step_wait_completes {s : State} {turns : List Turn} (hw : s.cfg.wellFormed = true) (hrun : s.bstate = .run)
    (hx : s.xfBusy = false) (ht : s.turns = .port .consumer :: turns) (hcmd : s.port.consumer.cmd = some .xfaWait) :
    step s = .next (State.finish { s with turns := turns, issuer := .consumer } .ok .none) := by
  rw [stepResumesCommand s .consumer turns .xfaWait hw ht hcmd]
  exact exec_xfaWait_idle hrun rfl hx

/-- Settles O39: the ENGINE's turn retires the transfer (`step_engine_retires`), and the CONSUMER's turn then finds none in
flight (`step_wait_completes`). -/
theorem waitEndsAfterRetire : Obligations.WaitEndsAfterRetire := by
  intro s turns hs hrun hx ht hcmd
  obtain ⟨hpanel, pixels, hpx⟩ := transferOk_inFlight hs.transfer hx
  exact ⟨_, _, step_engine_retires hs.config ht hx hpanel hpx, rfl, rfl,
    step_wait_completes hs.config hrun rfl rfl hcmd, rfl, rfl, rfl⟩

/-! ## What no command disturbs (44_transfer R141, R142; 70_reset_and_hazards R183) -/

/-- The active buffer is kept, and a transfer in flight with its descriptor, its buffer and the panel. -/
def LeavesTransfer (s u : State) : Prop :=
  u.obuf.get s.abi = s.obuf.get s.abi ∧ u.obufRows.get s.abi = s.obufRows.get s.abi ∧
    (s.xfBusy = true → u.xfBusy = true ∧ u.xfDesc = s.xfDesc ∧ u.abi = s.abi ∧ u.panel = s.panel)

theorem LeavesTransfer.refl (s : State) : LeavesTransfer s s := ⟨rfl, rfl, fun hx => ⟨hx, rfl, rfl, rfl⟩⟩

/-- SCL_BAND draws into the inactive buffer, and a push finds no transfer in flight; no other effect comes near. -/
theorem Effect.leavesTransfer {i : Instr} {s u : State} (e : Effect i s u) : LeavesTransfer s u := by
  cases e
  case band => exact ⟨PerBuf.get_set_not _ _ _, PerBuf.get_set_not _ _ _, fun hx => ⟨hx, rfl, rfl, rfl⟩⟩
  case push hidle _ => exact ⟨rfl, rfl, fun hx => absurd (hx.symm.trans hidle) (by decide)⟩
  all_goals exact LeavesTransfer.refl s

/-- Settles O52: by `Effect.leavesTransfer`. -/
theorem transferInFlightIsLeftAlone : Obligations.TransferInFlightIsLeftAlone := by
  intro i s t h
  rcases exec_next h with ⟨u, code, data, hu, rfl⟩ | ⟨u, ps, hu, rfl⟩ | ⟨c, rfl⟩
  · exact hu.leavesTransfer
  · exact hu.leavesTransfer
  · exact LeavesTransfer.refl s

end Sys2Proof.Machine
end

section
/-! The transfer family (44_transfer), the drain: its micro-steps do not look at their own port, so they write what SCL_BAND,
POOL_RELEASE and XFA_PUSH write (R140; 45_sequences R151). -/

namespace Sys2Proof.Machine

open Sys2Proof.Safety

/-! ## The block but for the issuing port -/

/-- The block of `s` with this progress and this last result on the issuing port. -/
def State.onPort (s : State) (ps : PortState) (r : Option Result) : State :=
  { s with port := s.port.set s.issuer ps, result := s.result.set s.issuer r }

theorem State.finish_eq_onPort (s : State) (code : Code) (data : Data) :
    s.finish code data = s.onPort .idle (some (.status ⟨code, data⟩)) := rfl

theorem State.setPortState_eq_onPort (s : State) (ps : PortState) : s.setPortState ps = s.onPort ps s.lastResult := by
  simp [State.setPortState, State.onPort, State.lastResult]

@[simp] theorem State.onPort_portState (s : State) (ps : PortState) (r : Option Result) :
    (s.onPort ps r).portState = ps := by
  simp [State.onPort, State.portState]

@[simp] theorem State.onPort_setPortState (s : State) (ps ps' : PortState) (r : Option Result) :
    (s.onPort ps r).setPortState ps' = s.onPort ps' r := by
  simp [State.onPort, State.setPortState]

@[simp] theorem State.onPort_finish (s : State) (ps : PortState) (r : Option Result) (code : Code) (data : Data) :
    (s.onPort ps r).finish code data = s.finish code data := by
  simp [State.onPort, State.finish, State.conclude]

/-- Two ways for a command to end on the same block differ in the issuing port alone. -/
theorem sameBlock_finish (s : State) (c c' : Code) (d d' : Data) : SameBlock (s.finish c d) (s.finish c' d') := by
  simp [SameBlock, State.finish, State.conclude]

/-- The micro-step with its next state changed by `f`. -/
def Micro.mapState (f : State → State) : Micro → Micro
  | .done code data t => .done code data (f t)
  | .next sub t => .next sub (f t)
  | .hold => .hold
  | .raise c => .raise c
  | .stop r => .stop r

theorem perform_mapState (f : State → State) (m : Micro) : perform (m.mapState f) = (perform m).mapState f := by
  cases m <;> rfl

section
variable (s : State) (ps : PortState) (r : Option Result)

theorem sclBand_onPort (k : Nat) : sclBand k (s.onPort ps r) = (sclBand k s).mapState (·.onPort ps r) := by
  have hholds : (s.onPort ps r).consumerHolds k = s.consumerHolds k := rfl
  have hpixels : ∀ m payload h, bandPixels (s.onPort ps r) m payload h = bandPixels s m payload h := fun _ _ _ => rfl
  have hslots : (s.onPort ps r).slots = s.slots := rfl
  have hcfg : (s.onPort ps r).cfg = s.cfg := rfl
  simp only [sclBand, hholds, hpixels, hslots, hcfg]
  repeat' split
  all_goals rfl

theorem poolRelease_onPort (k : Nat) : poolRelease k (s.onPort ps r) = (poolRelease k s).mapState (·.onPort ps r) := by
  have hholds : (s.onPort ps r).consumerHolds k = s.consumerHolds k := rfl
  simp only [poolRelease, hholds]
  split <;> rfl

theorem xfaPush_onPort (y h : Nat) : xfaPush y h (s.onPort ps r) = (xfaPush y h s).mapState (·.onPort ps r) := by
  have hx : (s.onPort ps r).xfBusy = s.xfBusy := rfl
  have hb : badRectangle (s.onPort ps r) y h = badRectangle s y h := rfl
  simp only [xfaPush, hx, hb]
  repeat' split
  all_goals rfl

theorem pushDrained_onPort (k : Nat) : pushDrained k (s.onPort ps r) = (pushDrained k s).mapState (·.onPort ps r) := by
  have hlatch : (s.onPort ps r).clatch = s.clatch := rfl
  simp only [pushDrained, hlatch]
  split
  · rfl
  · next l _ =>
    rw [xfaPush_onPort]
    split
    · cases xfaPush l.y.toNat l.h.toNat s <;> rfl
    · rfl

/-- No micro-step of XFA_DRAIN looks at its own port. -/
theorem drainStep_onPort (slot k : Nat) :
    drainStep slot (s.onPort ps r) k = (drainStep slot s k).mapState (·.onPort ps r) := by
  have hholds : (s.onPort ps r).consumerHolds slot = s.consumerHolds slot := rfl
  have hx : (s.onPort ps r).xfBusy = s.xfBusy := rfl
  unfold drainStep
  split
  · rw [hholds]; split <;> rfl
  · rw [hx]; split <;> rfl
  · rw [sclBand_onPort, perform_mapState]
  · rw [poolRelease_onPort, perform_mapState]
  · exact pushDrained_onPort s ps r slot

end

/-! ## Micro-steps in sequence -/

/-- A later micro-step of a composite on a running block is its pseudocode: the preamble is the first one's. -/
theorem exec_of_later {i : Instr} {s : State} (hk : stepOf i s ≠ 1) (hrun : s.bstate = .run) :
    exec i s = settle i (stepOf i s) s (bodyOf i s) := by
  rw [exec_eq, if_neg hk, turnedAway_run hrun]
  rfl

theorem runMicroSteps_next {i : Instr} {s t : State} (h : exec i s = .next t) (n : Nat) :
    runMicroSteps i (n + 1) s = runMicroSteps i n t := by
  simp only [runMicroSteps, h]

/-- A command that ends returns its status in place of what its port had in progress and has returned. -/
theorem settle_onPort_done (i : Instr) (k : Nat) (u b : State) (ps : PortState) (r : Option Result) (code : Code)
    (data : Data) : settle i k u ((Micro.done code data b).mapState (·.onPort ps r)) = .next (b.finish code data) := by
  simp only [settle, Micro.mapState, State.onPort_finish]

section
variable {s b : State} {slot : BitVec 8} {code : Code} {data : Data} (hrun : s.bstate = .run)
  (hport : s.issuer = .consumer) (ps : PortState) (r : Option Result)
include hrun hport

theorem exec_sclBand_onPort (hN : slot.toNat < s.cfg.slotCount) (h : sclBand slot.toNat s = .done code data b) :
    exec (.sclBand slot) (s.onPort ps r) = .next (b.finish code data) := by
  rw [exec_sclBand (s := s.onPort ps r) hrun hport hN, sclBand_onPort, h, settle_onPort_done]

theorem exec_poolRelease_onPort (hN : slot.toNat < s.cfg.slotCount) (h : poolRelease slot.toNat s = .done code data b) :
    exec (.poolRelease slot) (s.onPort ps r) = .next (b.finish code data) := by
  have hallowed : allowedOn (.poolRelease slot) (s.onPort ps r).issuer = true := by
    simp [allowedOn, State.onPort, hport]
  rw [exec_of_slot (s := s.onPort ps r) rfl hrun hallowed rfl hN, bodyOf, poolRelease_onPort, h, settle_onPort_done]

theorem exec_xfaPush_onPort {n : BitVec 8} {y : Half} (h : xfaPush y.toNat n.toNat s = .done code data b) :
    exec (.xfaPush n y) (s.onPort ps r) = .next (b.finish code data) := by
  rw [exec_xfaPush (s := s.onPort ps r) hrun hport, xfaPush_onPort, h, settle_onPort_done]

end

/-! ## The micro-steps of XFA_DRAIN (44_transfer R140) -/

/-- An XFA_DRAIN at micro-step `k`. -/
def drainAt (slot : BitVec 8) (k : Nat) (sub : Option Status) : PortState :=
  { cmd := some (.xfaDrain slot), step := k, sub := sub }

section
variable {s : State} {slot : BitVec 8}

theorem exec_xfaDrain_first (hrun : s.bstate = .run) (hport : s.issuer = .consumer) (hidle : s.portState = .idle)
    (hN : slot.toNat < s.cfg.slotCount) :
    exec (.xfaDrain slot) s = settle (.xfaDrain slot) 1 s (drainStep slot.toNat s 1) := by
  rw [exec_of_slot (stepOf_of_idle hidle _) hrun (by simp [allowedOn, hport]) rfl hN, bodyOf, microStep_of_idle hidle]

theorem exec_xfaDrain_held (hrun : s.bstate = .run) (hport : s.issuer = .consumer) (hidle : s.portState = .idle)
    (hN : slot.toNat < s.cfg.slotCount) (hholds : s.consumerHolds slot.toNat = true) :
    exec (.xfaDrain slot) s = .next (s.setPortState (drainAt slot 2 none)) := by
  rw [exec_xfaDrain_first hrun hport hidle hN, drainStep, hholds]
  rfl

theorem exec_xfaDrain_notHeld (hrun : s.bstate = .run) (hport : s.issuer = .consumer) (hidle : s.portState = .idle)
    (hN : slot.toNat < s.cfg.slotCount) (hholds : s.consumerHolds slot.toNat = false) :
    exec (.xfaDrain slot) s = .next (s.faultEntry .badState) := by
  rw [exec_xfaDrain_first hrun hport hidle hN, drainStep, hholds]
  rfl

variable {t : State} {k : Nat} {sub : Option Status} {r : Option Result}

/-- A later micro-step of XFA_DRAIN, on the block and on its port. -/
theorem exec_xfaDrain_later (hrun : s.bstate = .run) (hk : 1 < k) :
    exec (.xfaDrain slot) (s.onPort (drainAt slot k sub) r) =
      settle (.xfaDrain slot) k (s.onPort (drainAt slot k sub) r)
        ((drainStep slot.toNat s k).mapState (·.onPort (drainAt slot k sub) r)) := by
  have hstep : stepOf (.xfaDrain slot) (s.onPort (drainAt slot k sub) r) = k :=
    State.microStep_eq (by rw [State.onPort_portState]; rfl) hk
  have hrunv : (s.onPort (drainAt slot k sub) r).bstate = .run := hrun
  rw [exec_of_later (by omega) hrunv, hstep, ← drainStep_onPort]
  simp only [bodyOf, show State.microStep _ = k from hstep]

theorem exec_xfaDrain_next (hrun : s.bstate = .run) (hk : 1 < k) {sub' : Option Status}
    (h : drainStep slot.toNat s k = .next sub' t) :
    exec (.xfaDrain slot) (s.onPort (drainAt slot k sub) r) = .next (t.onPort (drainAt slot (k + 1) sub') r) := by
  rw [exec_xfaDrain_later hrun hk, h]
  simp only [settle, Micro.mapState, State.onPort_setPortState, drainAt]

theorem exec_xfaDrain_done (hrun : s.bstate = .run) (hk : 1 < k) {code : Code} {data : Data}
    (h : drainStep slot.toNat s k = .done code data t) :
    exec (.xfaDrain slot) (s.onPort (drainAt slot k sub) r) = .next (t.finish code data) := by
  rw [exec_xfaDrain_later hrun hk, h, settle_onPort_done]

theorem exec_xfaDrain_hold (hrun : s.bstate = .run) (hk : 1 < k) (h : drainStep slot.toNat s k = .hold) :
    exec (.xfaDrain slot) (s.onPort (drainAt slot k sub) r) = .next (s.onPort (drainAt slot k sub) r) := by
  rw [exec_xfaDrain_later hrun hk, h]
  simp only [settle, Micro.mapState, State.onPort_setPortState, State.onPort_portState, drainAt]

end

/-! ## What a drain writes (44_transfer R140; 42_scaler R120; 43_pool R131) -/

@[simp] theorem PerBuf.set_get {α : Type} (v : PerBuf α) (b : Bool) : v.set b (v.get b) = v := by
  cases b <;> rfl

/-- What SCL_BAND latches of a band of geometry `g`. -/
def latchOf (g : Geom) : Latch := { verdict := g.verdict, y := BitVec.ofNat 8 g.y, h := BitVec.ofNat 8 g.h }

/-- The fields SCL_BAND writes, of the buffers only the inactive one's. -/
def State.banded (s : State) (overflows : Word) (latch : Latch) (buffer : Memory) (rows : BitVec 8) : State :=
  { s with
    cntOverflow := overflows
    clatch := some latch
    obuf := s.obuf.set (!s.abi) buffer
    obufRows := s.obufRows.set (!s.abi) rows }

/-- The CONSUMER has released slot `k`, which was `sl`. -/
def State.released (s : State) (k : Nat) (sl : Slot) : State :=
  { s with slots := s.slots.set k { sl with state := .free }, ch := none }

/-- The band of geometry `g` is pushed if it is drawn. -/
def State.pushedIfDrawn (s : State) (g : Geom) : State := if g.verdict = .ok then s.pushed g.y g.h else s

/-- SCL_BAND of a held slot ends with the band's verdict, which it latches. -/
theorem sclBand_held {s : State} {k : Nat} {sl : Slot} {m : SlotMeta} (hs : HoldsSlot s k sl m) {pixels : List Half}
    (hpx : bandPixels s m sl.payload (slotGeom s.cfg m).h = some pixels) :
    ∃ data overflows buffer rows,
      sclBand k s = .done (slotGeom s.cfg m).verdict.code data
        (s.banded overflows (latchOf (slotGeom s.cfg m)) buffer rows) ∧
      ((slotGeom s.cfg m).verdict = .ok → rows = BitVec.ofNat 8 (slotGeom s.cfg m).h) := by
  by_cases hv : (slotGeom s.cfg m).verdict = .overflow
  · obtain ⟨hy, hh⟩ := geom_overflow hv
    refine ⟨.tooTall (slotGeom s.cfg m).dstY0 (slotGeom s.cfg m).dstLineCount, s.cntOverflow + 1#32,
      s.obuf.get (!s.abi), s.obufRows.get (!s.abi), ?_, fun hok => ?_⟩
    · rw [sclBand_overflow hs hv, latchOf, hv, show (slotGeom s.cfg m).y = 0 from hy,
        show (slotGeom s.cfg m).h = 0 from hh, State.banded, PerBuf.set_get, PerBuf.set_get]
      rfl
    · exact absurd (hok.symm.trans hv) (by decide)
  · exact ⟨_, s.cntOverflow, s.drawnBuffer pixels, _, sclBand_drawn hs hv hpx, fun _ => rfl⟩

/-- A drawn band's rectangle is on the raster, not empty, and no taller than a buffer (42_scaler R112). -/
theorem slotGeom_rectangle {c : Config} {m : SlotMeta} (hv : (slotGeom c m).verdict = .ok) :
    (slotGeom c m).y ≤ 239 ∧ 1 ≤ (slotGeom c m).h ∧ (slotGeom c m).y + (slotGeom c m).h ≤ 240 ∧
      (slotGeom c m).h ≤ c.outRows := by
  obtain ⟨-, -, hrows, hok⟩ := geom_bounds c.outRows m.srcWidth m.srcY0.toNat m.srcLineCount.toNat
  obtain ⟨hpos, hpanel⟩ := hok hv
  simp only [slotGeom]
  omega

/-- Its first row loses no bit in the latch or as the operand of XFA_PUSH (10_state R39; 30_encoding R82). -/
theorem slotGeom_y_toNat {c : Config} {m : SlotMeta} (hv : (slotGeom c m).verdict = .ok) :
    (BitVec.ofNat 8 (slotGeom c m).y).toNat = (slotGeom c m).y ∧
      (BitVec.ofNat 16 (slotGeom c m).y).toNat = (slotGeom c m).y := by
  have hy := (slotGeom_rectangle hv).1
  simp only [BitVec.toNat_ofNat]
  omega

/-- A drawn band may be pushed from the buffer whose row count is its own. -/
theorem xfaPush_drawn {s : State} {m : SlotMeta} (hv : (slotGeom s.cfg m).verdict = .ok) (hx : s.xfBusy = false)
    (hrows : s.obufRows.get (!s.abi) = BitVec.ofNat 8 (slotGeom s.cfg m).h) :
    xfaPush (slotGeom s.cfg m).y (slotGeom s.cfg m).h s =
      .done .ok (.buf (!s.abi)) (s.pushed (slotGeom s.cfg m).y (slotGeom s.cfg m).h) := by
  obtain ⟨hy, hpos, hpanel, hout⟩ := slotGeom_rectangle hv
  refine xfaPush_pushes hx (badRectangle_eq_false.2 ⟨hy, hpos, hpanel, hout, ?_⟩)
  rw [hrows, slotGeom_rows_toNat]

/-- The last micro-step of a drain pushes the latched band if it is drawn, and reports its verdict. -/
theorem pushDrained_latched {s : State} {m : SlotMeta} (k : Nat) (hl : s.clatch = some (latchOf (slotGeom s.cfg m)))
    (hx : s.xfBusy = false)
    (hrows : (slotGeom s.cfg m).verdict = .ok → s.obufRows.get (!s.abi) = BitVec.ofNat 8 (slotGeom s.cfg m).h) :
    pushDrained k s = .done (slotGeom s.cfg m).verdict.code
      (.drawn k (BitVec.ofNat 8 (slotGeom s.cfg m).y) (BitVec.ofNat 8 (slotGeom s.cfg m).h))
      (s.pushedIfDrawn (slotGeom s.cfg m)) := by
  by_cases hv : (slotGeom s.cfg m).verdict = .ok
  · obtain ⟨hy, -⟩ := slotGeom_y_toNat hv
    simp only [pushDrained, hl, latchOf, hv, if_true, hy, slotGeom_rows_toNat, xfaPush_drawn hv hx (hrows hv),
      State.pushedIfDrawn]
  · simp only [pushDrained, hl, latchOf, hv, if_false, State.pushedIfDrawn]

/-- The CONSUMER on a running block holds slot `k`, which is `sl` with the metadata `m` and a whole band, the tables are
built, and no transfer is in flight. -/
structure MayDrain (s : State) (k : Nat) (sl : Slot) (m : SlotMeta) : Prop where
  running : s.bstate = .run
  consumer : s.issuer = .consumer
  inPool : k < s.cfg.slotCount
  holds : HoldsSlot s k sl m
  band : HoldsBand s.cfg sl
  lut : s.lut = builtLut s.cfg
  hmap : s.hmap = builtMap
  vmap : s.vmap = builtMap
  noTransfer : s.xfBusy = false

/-- The micro-steps of a drain that write the block, one after the other: SCL_BAND leaves `b`, POOL_RELEASE frees the slot,
and the last one pushes the band if it is drawn. -/
structure Drains (s : State) (k : Nat) (sl : Slot) (g : Geom) (b : State) : Prop where
  writes : ∃ overflows latch buffer rows, b = s.banded overflows latch buffer rows
  band : ∃ data, sclBand k s = .done g.verdict.code data b
  release : poolRelease k b = .done .ok (.slot k) (b.released k sl)
  push : g.verdict = .ok →
    xfaPush g.y g.h (b.released k sl) = .done .ok (.buf (!s.abi)) ((b.released k sl).pushed g.y g.h)
  ends : pushDrained k (b.released k sl) = .done g.verdict.code (.drawn k (BitVec.ofNat 8 g.y) (BitVec.ofNat 8 g.h))
    ((b.released k sl).pushedIfDrawn g)

theorem MayDrain.drains {s : State} {k : Nat} {sl : Slot} {m : SlotMeta} (hd : MayDrain s k sl m) :
    ∃ b, Drains s k sl (slotGeom s.cfg m) b := by
  obtain ⟨pixels, hpx⟩ := bandPixels_defined hd.lut hd.hmap hd.vmap hd.band hd.holds.info
  obtain ⟨data, overflows, buffer, rows, hband, hrows⟩ := sclBand_held hd.holds hpx
  have hinactive : (slotGeom s.cfg m).verdict = .ok →
      ((s.obufRows.set (!s.abi) rows).get (!s.abi)) = BitVec.ofNat 8 (slotGeom s.cfg m).h := fun hv => by
    rw [PerBuf.get_set_self, hrows hv]
  exact ⟨_,
    { writes := ⟨_, _, _, _, rfl⟩
      band := ⟨data, hband⟩
      release := poolRelease_frees hd.holds.consumerHolds hd.holds.slot
      push := fun hv => xfaPush_drawn (s := State.released _ k sl) hv hd.noTransfer (hinactive hv)
      ends := pushDrained_latched (s := State.released _ k sl) k rfl hd.noTransfer hinactive }⟩

/-- After its band a drain is still the CONSUMER's, on a running block and a slot of the pool. -/
theorem Drains.keeps {s b : State} {k : Nat} {sl : Slot} {g : Geom} {m : SlotMeta} (hb : Drains s k sl g b)
    (hd : MayDrain s k sl m) : b.bstate = .run ∧ b.issuer = .consumer ∧ k < b.cfg.slotCount := by
  obtain ⟨_, _, _, _, rfl⟩ := hb.writes
  exact ⟨hd.running, hd.consumer, hd.inPool⟩

/-- Without another agent in between, the five micro-steps of XFA_DRAIN end with the band's verdict, in the block the three
that write have left. -/
theorem runMicroSteps_xfaDrain {s b : State} {slot : BitVec 8} {sl : Slot} {m : SlotMeta} (hd : MayDrain s slot.toNat sl m)
    (hidle : s.portState = .idle) (hb : Drains s slot.toNat sl (slotGeom s.cfg m) b) :
    runMicroSteps (.xfaDrain slot) 5 s = some (((b.released slot.toNat sl).pushedIfDrawn (slotGeom s.cfg m)).finish
      (slotGeom s.cfg m).verdict.code (.drawn slot.toNat (BitVec.ofNat 8 (slotGeom s.cfg m).y)
        (BitVec.ofNat 8 (slotGeom s.cfg m).h))) := by
  obtain ⟨hrunb, -, -⟩ := hb.keeps hd
  obtain ⟨data, hband⟩ := hb.band
  have hrunr : (b.released slot.toNat sl).bstate = .run := hrunb
  have hwait : drainStep slot.toNat s 2 = .next none s := by rw [drainStep, hd.noTransfer]; rfl
  have hdraw : drainStep slot.toNat s 3 = .next (some ⟨(slotGeom s.cfg m).verdict.code, data⟩) b := by
    rw [drainStep, hband]; rfl
  have hfree : drainStep slot.toNat b 4 = .next (some ⟨.ok, .slot slot.toNat⟩) (b.released slot.toNat sl) := by
    rw [drainStep, hb.release]; rfl
  rw [runMicroSteps_next (exec_xfaDrain_held hd.running hd.consumer hidle hd.inPool hd.holds.consumerHolds),
    State.setPortState_eq_onPort,
    runMicroSteps_next (exec_xfaDrain_next hd.running (by decide) hwait),
    runMicroSteps_next (exec_xfaDrain_next hd.running (by decide) hdraw),
    runMicroSteps_next (exec_xfaDrain_next hrunb (by decide) hfree),
    runMicroSteps_next (exec_xfaDrain_done (k := 5) hrunr (by decide) hb.ends)]
  rfl

/-- While a transfer is in flight the second micro-step of XFA_DRAIN holds (log entry 13). -/
theorem runMicroSteps_xfaDrain_held {s : State} {slot : BitVec 8} (hrun : s.bstate = .run) (hport : s.issuer = .consumer)
    (hidle : s.portState = .idle) (hN : slot.toNat < s.cfg.slotCount) (hholds : s.consumerHolds slot.toNat = true)
    (hx : s.xfBusy = true) :
    runMicroSteps (.xfaDrain slot) 2 s = some (s.setPortState (drainAt slot 2 none)) := by
  have hhold : drainStep slot.toNat s 2 = .hold := by rw [drainStep, hx]; rfl
  rw [runMicroSteps_next (exec_xfaDrain_held hrun hport hidle hN hholds), State.setPortState_eq_onPort,
    runMicroSteps_next (exec_xfaDrain_hold hrun (by decide) hhold)]
  rfl

/-- Settles O40: the first micro-step by what the CONSUMER holds, the hold by `runMicroSteps_xfaDrain_held`, the five
micro-steps by `runMicroSteps_xfaDrain`, whose writes are `State.banded`, `State.released` and `State.pushedIfDrawn`. -/
theorem xfaDrainAnswers : Obligations.XfaDrainAnswers := by
  intro s slot hrun hport hidle hN
  refine ⟨fun hnot => ?_, fun hch hst => ?_, fun sl m hch hsl hst hm hband _ hl hh hv hx => ?_⟩
  · exact exec_xfaDrain_notHeld hrun hport hidle hN (State.consumerHolds_eq_false hnot)
  · have hholds := State.consumerHolds_iff.2 ⟨hch, hst⟩
    exact ⟨exec_xfaDrain_held hrun hport hidle hN hholds, runMicroSteps_xfaDrain_held hrun hport hidle hN hholds⟩
  · have hd : MayDrain s slot.toNat sl m := ⟨hrun, hport, hN, ⟨hch, hsl, hst, hm⟩, hband, hl, hh, hv, hx⟩
    obtain ⟨b, hb⟩ := hd.drains
    refine ⟨_, runMicroSteps_xfaDrain hd hidle hb, State.finish_portState _ _ _, State.finish_lastResult _ _ _, ?_⟩
    obtain ⟨overflows, latch, buffer, rows, rfl⟩ := hb.writes
    by_cases hok : (slotGeom s.cfg m).verdict = .ok
    · simp [State.pushedIfDrawn, hok, State.pushed, State.released, State.banded, State.finish, State.conclude,
        State.lastResult, hport]
    · simp [State.pushedIfDrawn, hok, State.released, State.banded, State.finish, State.conclude, State.lastResult,
        hport, hx]

/-- Settles O41: each primitive does to the block what its micro-step of the drain does (`sclBand_onPort` and its like), so
the blocks at the end are the same. -/
theorem drainEqualsPrimitives : Obligations.DrainEqualsPrimitives := by
  intro s slot sl m hrun hport hidle hN _ hx hch hsl hst hm hband hl hh hv
  have hd : MayDrain s slot.toNat sl m := ⟨hrun, hport, hN, ⟨hch, hsl, hst, hm⟩, hband, hl, hh, hv, hx⟩
  obtain ⟨b, hb⟩ := hd.drains
  have hdrain := runMicroSteps_xfaDrain hd hidle hb
  obtain ⟨hrunb, hportb, hNb⟩ := hb.keeps hd
  obtain ⟨_, hdraw⟩ := hb.band
  have hrunr : (b.released slot.toNat sl).bstate = .run := hrunb
  have hportr : (b.released slot.toNat sl).issuer = .consumer := hportb
  refine ⟨_, _, _, _, hdrain, exec_xfaWait_idle hrun hport hx, exec_sclBand_onPort hrun hport _ _ hN hdraw,
    exec_poolRelease_onPort hrunb hportb _ _ hNb hb.release, fun hok => ?_, fun hnot => ?_⟩
  · obtain ⟨-, hy⟩ := slotGeom_y_toNat hok
    have hpush : xfaPush (BitVec.ofNat 16 (slotGeom s.cfg m).y).toNat (BitVec.ofNat 8 (slotGeom s.cfg m).h).toNat
        (b.released slot.toNat sl) = .done .ok (.buf (!s.abi))
          ((b.released slot.toNat sl).pushed (slotGeom s.cfg m).y (slotGeom s.cfg m).h) := by
      rw [hy, slotGeom_rows_toNat]
      exact hb.push hok
    refine ⟨_, exec_xfaPush_onPort hrunr hportr _ _ hpush, ?_⟩
    rw [State.pushedIfDrawn, if_pos hok]
    exact sameBlock_finish _ _ _ _ _
  · rw [State.pushedIfDrawn, if_neg hnot]
    exact sameBlock_finish _ _ _ _ _

end Sys2Proof.Machine
end

section
/-! The transfer family (44_transfer), the later micro-steps of the composites: what a sound state says of a port between
micro-steps is what the next micro-step asks, so only a first micro-step faults (R140; 45_sequences R145, R147). -/

namespace Sys2Proof.Machine

open Sys2Proof.Safety

/-! ## Micro-steps that raise no fault -/

/-- The micro-step raises no fault (60_exceptions R156). -/
def Micro.Faultless : Micro → Prop
  | .raise _ => False
  | _ => True

@[simp] theorem Micro.faultless_done (code : Code) (data : Data) (t : State) : (Micro.done code data t).Faultless :=
  trivial
@[simp] theorem Micro.faultless_next (sub : Option Status) (t : State) : (Micro.next sub t).Faultless := trivial
@[simp] theorem Micro.faultless_hold : Micro.hold.Faultless := trivial
@[simp] theorem perform_faultless (m : Micro) : (perform m).Faultless ↔ m.Faultless := by cases m <;> rfl
@[simp] theorem performKeeping_faultless (sub : Option Status) (m : Micro) :
    (performKeeping sub m).Faultless ↔ m.Faultless := by cases m <;> rfl

theorem ingestCheck_faultless {s : State} (hd : s.rxd.isSome) : (ingestCheck s).Faultless := by
  obtain ⟨d, hd⟩ := Option.isSome_iff_exists.1 hd
  simp only [ingestCheck, hd]
  split <;> simp

theorem ingestAcquire_faultless {s : State} (hp : s.ph = none) : (ingestAcquire s).Faultless := by
  cases hf : firstFree s.slots with
  | none => simp [ingestAcquire, poolAcquire_exhausted hp hf]
  | some k => simp [ingestAcquire, poolAcquire_claims hp hf]

theorem pushDrained_faultless {s : State} (hx : s.xfBusy = false) (hl : LatchOk s) (i : Nat) :
    (pushDrained i s).Faultless := by
  obtain ⟨l, hlatch, hpushable⟩ := hl
  simp only [pushDrained, hlatch]
  split
  · next hv =>
    obtain ⟨hpos, hpanel, hout, hrows⟩ := hpushable hv
    have hrectangle := badRectangle_eq_false.2 ⟨by omega, hpos, hpanel, hout, hrows⟩
    rw [xfaPush_pushes hx hrectangle]
    exact Micro.faultless_done _ _ _
  · exact Micro.faultless_done _ _ _

/-- The wait of a drain holds or passes. -/
theorem drainWait_faultless (s : State) (sub : Option Status) :
    (if s.xfBusy then Micro.hold else .next sub s).Faultless := by
  split <;> simp

section
variable {s : State} (hs : Sound s)
include hs

/-! ## The later micro-steps of SEQ_INGEST (45_sequences R145) -/

/-- The slot PH names is in `Filling`. -/
theorem fillingSlot_of_sound {i : Nat} (hp : s.ph = some i) : ∃ sl, s.slots[i]? = some sl ∧ sl.state = .filling := by
  obtain ⟨-, hph, -⟩ := hs.holders
  exact State.slotState_eq_some.1 ((hph i).1 hp)

theorem ingestFill_faultless {i : Nat} {d : Datagram} {h : Header} (hp : s.ph = some i)
    (hf : (s.slots[i]?).any (·.filled) = false) (hd : s.rxd = some d) (hh : headerOf s.cfg.maxLines d = .ok h) :
    (ingestFill s).Faultless := by
  obtain ⟨sl, hsl, hst⟩ := fillingSlot_of_sound hs hp
  have hm : MayFill s i sl d := ⟨hp, hsl, hst, by simpa [hsl] using hf, hd⟩
  simp only [ingestFill, hp, perform_faultless]
  by_cases hl : d.length - 5 < h.expected
  · simp [poolFill_short hm hh hl]
  · simp [poolFill_ok hm hh (Nat.le_of_not_lt hl) (headerOf_fits hs.config hh)]

theorem ingestEnd_faultless {i : Nat} {st : Status} (hp : s.ph = some i) (hsub : s.portState.sub = some st)
    (hf : st.code = .ok → (s.slots[i]?).any (·.filled) = true) : (ingestEnd s).Faultless := by
  obtain ⟨sl, hsl, hst⟩ := fillingSlot_of_sound hs hp
  have hholds := State.producerHolds_of_slot hp hsl hst
  unfold ingestEnd
  split
  · next hp' hsub' =>
    cases hp.symm.trans hp'
    cases hsub.symm.trans hsub'
    have hcommit := poolCommit_publishes hholds hsl (by simpa [hsl] using hf rfl)
    obtain ⟨band, hband⟩ := Option.ne_none_iff_exists'.1 (acceptedBand_of_commit hs.bands hcommit)
    simp [hband, hcommit]
  · next hp' _ =>
    cases hp.symm.trans hp'
    simp [poolAbort_frees hholds hsl]
  · next hsub' => cases hsub.symm.trans hsub'
  · next hp' => cases hp.symm.trans hp'

/-- What the PRODUCER's port rests on at micro-step `k` is what that micro-step asks. -/
theorem ingestStep_faultless {k : Nat} (hok : IngestOk s k s.portState.sub) : (ingestStep s k).Faultless := by
  unfold IngestOk at hok
  split at hok
  · exact ingestCheck_faultless hok.2
  · exact ingestAcquire_faultless hok.1
  · obtain ⟨i, d, h, hp, hf, hd, hh⟩ := hok
    exact ingestFill_faultless hs hp hf hd hh
  · obtain ⟨i, st, hp, hsub, hf⟩ := hok
    exact ingestEnd_faultless hs hp hsub hf
  · exact hok.elim

/-! ## The later micro-steps of the drains (44_transfer R140; 45_sequences R147) -/

/-- The slot CH names is in `Displaying` and holds a whole band. -/
theorem holdsSlot_of_sound {i : Nat} (hc : s.ch = some i) : ∃ sl m, HoldsSlot s i sl m ∧ HoldsBand s.cfg sl := by
  obtain ⟨-, -, hch⟩ := hs.holders
  obtain ⟨sl, hsl, hst⟩ := State.slotState_eq_some.1 ((hch i).1 hc)
  have hband : HoldsBand s.cfg sl := hs.bands sl (List.mem_of_getElem? hsl) (.inr (.inl hst))
  obtain ⟨m, hm⟩ := BandsOk.slot_info hs.bands hsl (.inr (.inl hst))
  exact ⟨sl, m, ⟨hc, hsl, hst, hm⟩, hband⟩

theorem sclBand_faultless (hrun : s.bstate = .run) {i : Nat} (hc : s.ch = some i) : (sclBand i s).Faultless := by
  obtain ⟨sl, m, hholds, hband⟩ := holdsSlot_of_sound hs hc
  obtain ⟨hlut, hhmap, hvmap⟩ := hs.tables hrun
  obtain ⟨pixels, hpx⟩ := bandPixels_defined hlut hhmap hvmap hband hholds.info
  obtain ⟨_, _, _, _, hdone, -⟩ := sclBand_held hholds hpx
  rw [hdone]
  exact Micro.faultless_done _ _ _

theorem poolRelease_faultless {i : Nat} (hc : s.ch = some i) : (poolRelease i s).Faultless := by
  obtain ⟨sl, m, hholds, -⟩ := holdsSlot_of_sound hs hc
  rw [poolRelease_frees hholds.consumerHolds hholds.slot]
  exact Micro.faultless_done _ _ _

/-- What an XFA_DRAIN rests on at micro-step `k` is what that micro-step asks. -/
theorem drainStep_faultless (hrun : s.bstate = .run) {i k : Nat} (hok : DrainOk s i k) :
    (drainStep i s k).Faultless := by
  unfold DrainOk at hok
  split at hok
  · exact drainWait_faultless s none
  · exact (perform_faultless _).2 (sclBand_faultless hs hrun hok.1)
  · exact (perform_faultless _).2 (poolRelease_faultless hs hok.1)
  · exact pushDrained_faultless hok.1 hok.2 i
  · exact hok.elim

/-- What a SEQ_CONSUME rests on at micro-step `k` is what that micro-step asks. -/
theorem consumeStep_faultless (hrun : s.bstate = .run) {k : Nat} (hok : ConsumeOk s k s.portState.sub) :
    (consumeStep s k).Faultless := by
  obtain ⟨code, i, fid, y, hsub, hdrain⟩ := hok
  unfold DrainOk at hdrain
  split at hdrain
  · exact drainWait_faultless s _
  · rw [consumeStep, performKeeping_faultless, onHeldSlot, hdrain.1]
    exact sclBand_faultless hs hrun hdrain.1
  · rw [consumeStep, performKeeping_faultless, onHeldSlot, hdrain.1]
    exact poolRelease_faultless hs hdrain.1
  · simp only [consumeStep, consumeEnd, hsub]
    exact pushDrained_faultless hdrain.1 hdrain.2 i
  · exact hdrain.elim

/-! ## A later turn of a composite -/

/-- A later micro-step that is not turned away raises no fault. -/
theorem bodyOf_faultless {i : Instr} (hp : MayRun i s) (hk : stepOf i s ≠ 1) (haway : turnedAway i s = false) :
    (bodyOf i s).Faultless := by
  have hrun := running_of_not_turnedAway haway
  cases i with
  | seqIngest => exact ingestStep_faultless hs ((hp.ingestOk hs).resolve_left hk)
  | xfaDrain slot =>
    exact drainStep_faultless hs (hrun (by simp [Instr.opcode])) ((hp.drainOk hs).resolve_left hk)
  | seqConsume => exact consumeStep_faultless hs (hrun (by simp [Instr.opcode])) ((hp.consumeOk hs).resolve_left hk)
  | _ => exact absurd rfl hk

end

/-- A port at micro-step 2 or later has a composite in progress: an XFA_WAIT stays at its one micro-step. -/
theorem composite_of_later {s : State} {p : Port} {ps : PortState} (h : PortStateOk s p ps) (hk : 2 ≤ ps.step) :
    ∃ i, ps.cmd = some i ∧ ∀ u, stepOf i u = u.microStep := by
  have busy : ps ≠ .idle := by
    rintro rfl
    simp [PortState.idle] at hk
  cases p with
  | producer =>
    obtain ⟨hcmd, -⟩ := h.resolve_left busy
    exact ⟨_, hcmd, fun _ => rfl⟩
  | consumer =>
    rcases h.resolve_left busy with ⟨-, hstep⟩ | ⟨slot, hcmd, -⟩ | ⟨hcmd, -⟩
    · omega
    · exact ⟨_, hcmd, fun _ => rfl⟩
    · exact ⟨_, hcmd, fun _ => rfl⟩
  | host => exact absurd h busy

/-- From `s` to `t` the fault record is kept and port `p` has returned no fault. -/
def NoFaultOn (p : Port) (s t : State) : Prop :=
  t.bstate = s.bstate ∧ t.faultCause = s.faultCause ∧
    ∀ c, t.result.get p = some (.fault c) → s.result.get p = some (.fault c)

theorem NoFaultOn.finish {i : Instr} {s u : State} (e : Effect i s u) (code : Code) (data : Data) :
    NoFaultOn s.issuer s (u.finish code data) := by
  refine ⟨e.bstate, e.faultCause, fun c h => ?_⟩
  rw [State.finish_result, e.port.2, PerPort.get_set_self] at h
  simp at h

theorem NoFaultOn.setPortState {i : Instr} {s u : State} (e : Effect i s u) (ps : PortState) :
    NoFaultOn s.issuer s (u.setPortState ps) := by
  refine ⟨e.bstate, e.faultCause, fun c h => ?_⟩
  rwa [State.setPortState_result, e.result] at h

theorem exec_noFaultOn {i : Instr} {s t : State} (hs : Sound s) (hp : MayRun i s) (hk : stepOf i s ≠ 1)
    (h : exec i s = .next t) : NoFaultOn s.issuer s t := by
  rcases exec_cases h with ⟨-, e⟩ | ⟨hfirst, -⟩ | ⟨hfirst, -⟩ | ⟨haway, -, e⟩
  · cases e; exact .finish (i := i) .same _ _
  · exact absurd hfirst hk
  · exact absurd hfirst hk
  · have hfaultless := bodyOf_faultless hs hp hk haway
    rcases settle_cases e.symm with ⟨code, data, u, hm, rfl⟩ | ⟨sub, u, hm, rfl⟩ | ⟨-, rfl⟩ | ⟨c, hm, -⟩
    · exact .finish (bodyOf_after (by rw [hm]; rfl)) code data
    · exact .setPortState (bodyOf_after (by rw [hm]; rfl)) _
    · exact .setPortState (i := i) .same _
    · rw [hm] at hfaultless
      exact hfaultless.elim

/-- Settles O58: the port has a composite past its first micro-step in progress (`composite_of_later`), whose pseudocode
raises no fault (`bodyOf_faultless`). -/
theorem laterMicroStepsDoNotFault : Obligations.LaterMicroStepsDoNotFault := by
  intro s t p turns hs ht hk e
  obtain ⟨i, hcmd, hstepOf⟩ := composite_of_later (portsOk_of_sound hs p) hk
  rw [stepResumesCommand s p turns i hs.config ht hcmd] at e
  have hstep : stepOf i { s with turns := turns, issuer := p } ≠ 1 := by
    rw [hstepOf, State.microStep_eq (k := (s.port.get p).step) rfl hk]
    omega
  exact exec_noFaultOn (hs.of_inputs p turns s.cmdq) (.inr hcmd) hstep e

end Sys2Proof.Machine
end

section
/-! The sequences family (45_sequences): the turns of the environment, the micro-steps of a composite with no other agent
in between (R151), each taken on the block and on its port, and SEQ_INGEST. -/

namespace Sys2Proof.Machine

open Sys2Proof.Safety

/-! ## The turns of the environment (R152; 70_reset_and_hazards R171, R172) -/

theorem transportStep_delivers {s : State} {d : Datagram} {more : List Datagram} (h : s.air = d :: more) :
    transportStep s = { s with rxq := s.rxq ++ [d], air := more } := by
  rw [transportStep, h]

/-- Settles O9: the turn is the agent's own move (`step_of_turn`), and with none left `step_of_no_turn`. -/
theorem environmentTurns : Obligations.EnvironmentTurns := by
  refine ⟨fun s turns d more hw ht hair => ?_, fun s turns ok hw ht => ?_, fun s hw ht => step_of_no_turn hw ht⟩
  · rw [step_of_turn hw ht, moveAgent, transportStep_delivers (s := { s with turns := turns }) hair]
  · rw [step_of_turn hw ht]
    rfl

/-! ## A composite micro-step by micro-step (10_state R21; R151) -/

/-- A command in progress at micro-step `k`, with what its earlier micro-steps took. -/
def PortState.busy (i : Instr) (k : Nat) (sub : Option Status) : PortState := { cmd := some i, step := k, sub := sub }

/-- Micro-step `k` of the composite `i`, whose pseudocode is `m`, comes to `res` on the block `s` when its port keeps
`sub`, whatever that port has returned before. -/
def ComesTo (i : Instr) (m : State → Nat → Micro) (k : Nat) (sub : Option Status) (s : State) (res : Micro) : Prop :=
  ∀ r, m (s.onPort (.busy i k sub) r) k = res.mapState (·.onPort (.busy i k sub) r)

section
variable {i : Instr} {m : State → Nat → Micro} (hi : ∀ u, exec i u = composite i u (m u)) {s t : State}
include hi

/-- The first micro-step of a composite that passes the preamble. -/
theorem exec_composite_first (hrun : s.bstate = .run) (hidle : s.portState = .idle)
    (hport : allowedOn i s.issuer = true) (hslot : badSlotOperand s.cfg i = false) :
    exec i s = settle i 1 s (m s 1) := by
  rw [hi, composite, if_pos (microStep_of_idle hidle), preamble_pass (turnedAway_run hrun) hport hslot]

variable {k : Nat} {sub : Option Status} {r : Option Result}

/-- A later micro-step of a composite, on the block and on its port. -/
theorem exec_composite_later {res : Micro} (h : ComesTo i m k sub s res) (hrun : s.bstate = .run) (hk : 1 < k) :
    exec i (s.onPort (.busy i k sub) r) =
      settle i k (s.onPort (.busy i k sub) r) (res.mapState (·.onPort (.busy i k sub) r)) := by
  have hstep : (s.onPort (.busy i k sub) r).microStep = k := State.microStep_eq (by rw [State.onPort_portState]; rfl) hk
  have hrunv : (s.onPort (.busy i k sub) r).bstate = .run := hrun
  rw [hi, composite, hstep, if_neg (Nat.ne_of_gt hk), turnedAway_run hrunv, h r]
  rfl

/-- A micro-step that leaves the block `t` is followed by the next one. -/
theorem runMicroSteps_later_next {sub' : Option Status} {n : Nat} (h : ComesTo i m k sub s (.next sub' t))
    (hrun : s.bstate = .run) (hk : 1 < k) :
    runMicroSteps i (n + 1) (s.onPort (.busy i k sub) r) = runMicroSteps i n (t.onPort (.busy i (k + 1) sub') r) := by
  refine runMicroSteps_next ?_ n
  rw [exec_composite_later hi h hrun hk]
  simp only [settle, Micro.mapState, State.onPort_setPortState, PortState.busy]

/-- A micro-step that ends the composite leaves the block `t` with the status returned. -/
theorem runMicroSteps_later_done {code : Code} {data : Data} (h : ComesTo i m k sub s (.done code data t))
    (hrun : s.bstate = .run) (hk : 1 < k) :
    runMicroSteps i 1 (s.onPort (.busy i k sub) r) = some (t.finish code data) := by
  rw [runMicroSteps_next (t := t.finish code data)]
  · rfl
  · rw [exec_composite_later hi h hrun hk, settle_onPort_done]

/-- A micro-step that holds leaves everything as it is (log entry 13). -/
theorem runMicroSteps_later_hold (h : ComesTo i m k sub s .hold) (hrun : s.bstate = .run) (hk : 1 < k) :
    runMicroSteps i 1 (s.onPort (.busy i k sub) r) = some (s.onPort (.busy i k sub) r) := by
  rw [runMicroSteps_next (t := s.onPort (.busy i k sub) r)]
  · rfl
  · rw [exec_composite_later hi h hrun hk]
    simp only [settle, Micro.mapState, State.onPort_setPortState, State.onPort_portState, PortState.busy]

end

/-! ## The first micro-step of SEQ_INGEST (R145) -/

/-- The head of RXQ is taken into RXD. -/
def State.polled (s : State) (d : Datagram) (rest : List Datagram) : State := { s with rxq := rest, rxd := some d }

section
variable {s : State} (hrun : s.bstate = .run) (hport : s.issuer = .producer) (hidle : s.portState = .idle)
include hrun hport hidle

theorem exec_seqIngest_first : exec .seqIngest s = settle .seqIngest 1 s (ingestPoll s) :=
  exec_composite_first (m := ingestStep) (fun _ => rfl) hrun hidle (by simp [allowedOn, hport]) rfl

theorem exec_seqIngest_badState (hph : s.ph ≠ none) : exec .seqIngest s = .next (s.faultEntry .badState) := by
  rw [exec_seqIngest_first hrun hport hidle, ingestPoll, if_pos hph]
  rfl

theorem exec_seqIngest_empty (hph : s.ph = none) (hq : s.rxq = []) :
    exec .seqIngest s = .next (s.finish .empty .none) := by
  rw [exec_seqIngest_first hrun hport hidle, ingestPoll, if_neg (not_not_intro hph), hq]
  rfl

theorem exec_seqIngest_polls {d : Datagram} {rest : List Datagram} (hph : s.ph = none) (hq : s.rxq = d :: rest) :
    exec .seqIngest s = .next ((s.polled d rest).setPortState (.busy .seqIngest 2 none)) := by
  rw [exec_seqIngest_first hrun hport hidle, ingestPoll, if_neg (not_not_intro hph), hq]
  rfl

end

/-! ## The later micro-steps of SEQ_INGEST (R145) -/

/-- Slot `k` of the pool is `sl` and the `Free` one of lowest index. -/
structure LeastFree (s : State) (k : Nat) (sl : Slot) : Prop where
  slot : s.slots[k]? = some sl
  free : sl.state = .free
  least : ∀ j < k, s.slotState j ≠ some .free

/-- The PRODUCER has claimed slot `k`, which was `sl`. -/
def State.claimed (s : State) (k : Nat) (sl : Slot) : State :=
  { s with slots := s.slots.set k { sl with state := .filling, filled := false }, ph := some k }

/-- A payload too short is counted. -/
def State.countedShort (s : State) : State := { s with cntShort := s.cntShort + 1#32 }

/-- The claimed slot `k` holds the band of header `h`. -/
def State.filledWith (s : State) (k : Nat) (h : Header) (payload : Memory) : State :=
  { s with slots := s.slots.set k (slotOfBand .filling h payload) }

/-- The PRODUCER has let go of slot `k`, which is now `sl`, and of the datagram. -/
def State.letGo (s : State) (k : Nat) (sl : Slot) : State :=
  { s with slots := s.slots.set k sl, ph := none, rxd := none }

section
variable {s : State} {d : Datagram} {k : Nat} {sl : Slot} {h : Header}

theorem ingestCheck_malformed {c : Subcause} (hd : s.rxd = some d) (hh : headerOf s.cfg.maxLines d = .error c) :
    ingestCheck s = .done .malformed (.cause c) { s with cntMalformed := s.cntMalformed + 1#32, rxd := none } := by
  simp [ingestCheck, hd, hh, dropDatagram]

theorem ingestCheck_passes (hd : s.rxd = some d) (hh : headerOf s.cfg.maxLines d = .ok h) :
    ingestCheck s = .next none s := by
  simp [ingestCheck, hd, hh]

theorem ingestAcquire_exhausted (hph : s.ph = none) (hfull : ∀ j, s.slotState j ≠ some .free) :
    ingestAcquire s = .done .exhausted .none { s with cntDrop := s.cntDrop + 1#32, rxd := none } := by
  rw [ingestAcquire, poolAcquire_exhausted hph (firstFree_eq_none_iff.2 hfull)]
  rfl

theorem ingestAcquire_claims (hph : s.ph = none) (hf : LeastFree s k sl) :
    ingestAcquire s = .next (some ⟨.ok, .slot k⟩) (s.claimed k sl) := by
  have hfirst : firstFree s.slots = some k :=
    firstFree_eq_some_iff.2 ⟨State.slotState_eq_some.2 ⟨sl, hf.slot, hf.free⟩, hf.least⟩
  rw [ingestAcquire, poolAcquire_claims hph hfirst, List.modify_eq_set_getElem?, hf.slot]
  rfl

/-- A slot just claimed may be filled with the datagram held. -/
theorem mayFill_claimed (hsl : s.slots[k]? = some sl) (hd : s.rxd = some d) :
    MayFill (s.claimed k sl) k { sl with state := .filling, filled := false } d where
  handle := rfl
  slot := List.getElem?_set_self (List.getElem?_eq_some_iff.1 hsl).1
  filling := rfl
  unfilled := rfl
  datagram := hd

theorem MayFill.onPort (hm : MayFill s k sl d) (ps : PortState) (r : Option Result) : MayFill (s.onPort ps r) k sl d :=
  ⟨hm.handle, hm.slot, hm.filling, hm.unfilled, hm.datagram⟩

theorem ingestFill_short (hm : MayFill s k sl d) (hh : headerOf s.cfg.maxLines d = .ok h)
    (hl : d.length - 5 < h.expected) :
    ingestFill s = .next (some ⟨.short, .lacks h.expected (d.length - 5)⟩) s.countedShort := by
  simp only [ingestFill, hm.handle, poolFill_short hm hh hl, perform, State.countedShort]

theorem ingestFill_ok (hm : MayFill s k sl d) (hh : headerOf s.cfg.maxLines d = .ok h)
    (hl : h.expected ≤ d.length - 5) (hb : h.expected ≤ s.cfg.slotBytes.toNat) :
    ingestFill s = .next (some ⟨.ok, .fits h.expected (d.length - 5 - h.expected)⟩)
      (s.filledWith k h (filledSlot h d sl).payload) := by
  simp only [ingestFill, hm.handle, poolFill_ok hm hh hl hb, perform, State.filledWith]

/-- After a fill that answered SHORT the slot is freed. -/
theorem ingestEnd_short {data : Data} (hph : s.ph = some k) (hsub : s.portState.sub = some ⟨.short, data⟩)
    (hsl : s.slots[k]? = some sl) (hst : sl.state = .filling) :
    ingestEnd s = .done .short data (s.letGo k { sl with state := .free, filled := false }) := by
  simp only [ingestEnd, hph, hsub, poolAbort_frees (State.producerHolds_of_slot hph hsl hst) hsl]
  rfl

/-- After a fill that answered OK the slot is published. -/
theorem ingestEnd_ok {data : Data} {payload : Memory} (hph : s.ph = some k)
    (hsub : s.portState.sub = some ⟨.ok, data⟩) (hsl : s.slots[k]? = some (slotOfBand .filling h payload)) :
    ingestEnd s = .done .ok (.band k h.frameId h.yStart) (s.letGo k (slotOfBand .ready h payload)) := by
  have hband : acceptedBand k s = some (.band k h.frameId h.yStart) := by
    rw [acceptedBand, hsl]
    rfl
  simp only [ingestEnd, hph, hsub, hband, poolCommit_publishes (State.producerHolds_of_slot hph hsl rfl) hsl rfl]
  rfl

end

/-! ## The outcomes of SEQ_INGEST (R146) -/

/-- The block on which a SEQ_INGEST has polled the datagram `d`, and the PRODUCER holds no slot. -/
structure Polled (s : State) (d : Datagram) : Prop where
  running : s.bstate = .run
  noSlot : s.ph = none
  datagram : s.rxd = some d

section
variable {s : State} {d : Datagram} (hp : Polled s d) {r : Option Result}
include hp

theorem Polled.run_malformed {c : Subcause} (hh : headerOf s.cfg.maxLines d = .error c) :
    runMicroSteps .seqIngest 1 (s.onPort (.busy .seqIngest 2 none) r) = some (State.finish
      { s with cntMalformed := s.cntMalformed + 1#32, rxd := none } .malformed (.cause c)) :=
  runMicroSteps_later_done (m := ingestStep) (fun _ => rfl)
    (fun r => ingestCheck_malformed (s := s.onPort _ r) hp.datagram hh) hp.running (by decide)

variable {h : Header} (hh : headerOf s.cfg.maxLines d = .ok h)
include hh

/-- An accepted header changes nothing. -/
theorem Polled.run_checked (n : Nat) : runMicroSteps .seqIngest (n + 1) (s.onPort (.busy .seqIngest 2 none) r) =
    runMicroSteps .seqIngest n (s.onPort (.busy .seqIngest 3 none) r) := by
  have hcheck : ComesTo .seqIngest ingestStep 2 none s (.next none s) :=
    fun r => ingestCheck_passes (s := s.onPort _ r) hp.datagram hh
  exact runMicroSteps_later_next (fun _ => rfl) hcheck hp.running (by decide)

theorem Polled.run_exhausted (hfull : ∀ j, s.slotState j ≠ some .free) :
    runMicroSteps .seqIngest 2 (s.onPort (.busy .seqIngest 2 none) r) = some (State.finish
      { s with cntDrop := s.cntDrop + 1#32, rxd := none } .exhausted .none) := by
  rw [hp.run_checked hh]
  exact runMicroSteps_later_done (m := ingestStep) (fun _ => rfl)
    (fun r => ingestAcquire_exhausted (s := s.onPort _ r) hp.noSlot hfull) hp.running (by decide)

variable {k : Nat} {sl : Slot} (hf : LeastFree s k sl)
include hf

/-- The `Free` slot of lowest index is claimed. -/
theorem Polled.run_claimed (n : Nat) : runMicroSteps .seqIngest (n + 2) (s.onPort (.busy .seqIngest 2 none) r) =
    runMicroSteps .seqIngest n ((s.claimed k sl).onPort (.busy .seqIngest 4 (some ⟨.ok, .slot k⟩)) r) := by
  have hacquire : ComesTo .seqIngest ingestStep 3 none s (.next (some ⟨.ok, .slot k⟩) (s.claimed k sl)) :=
    fun r => ingestAcquire_claims (s := s.onPort _ r) hp.noSlot ⟨hf.slot, hf.free, hf.least⟩
  rw [hp.run_checked hh]
  exact runMicroSteps_later_next (fun _ => rfl) hacquire hp.running (by decide)

/-- A short payload is counted, and the claimed slot is freed. -/
theorem Polled.run_short (hl : d.length - 5 < h.expected) :
    runMicroSteps .seqIngest 4 (s.onPort (.busy .seqIngest 2 none) r) = some (State.finish
      { s with cntShort := s.cntShort + 1#32, rxd := none,
               slots := s.slots.set k { sl with state := .free, filled := false } }
      .short (.lacks h.expected (d.length - 5))) := by
  have hm : MayFill (s.claimed k sl) k _ d := mayFill_claimed hf.slot hp.datagram
  have hfill : ComesTo .seqIngest ingestStep 4 (some ⟨.ok, .slot k⟩) (s.claimed k sl)
      (.next (some ⟨.short, .lacks h.expected (d.length - 5)⟩) (s.claimed k sl).countedShort) :=
    fun r => ingestFill_short (hm.onPort _ r) hh hl
  have hend : ComesTo .seqIngest ingestStep 5 (some ⟨.short, .lacks h.expected (d.length - 5)⟩)
      (s.claimed k sl).countedShort (.done .short (.lacks h.expected (d.length - 5))
        ((s.claimed k sl).countedShort.letGo k { sl with state := .free, filled := false })) :=
    fun r => ingestEnd_short (s := State.onPort _ _ r) (sl := { sl with state := .filling, filled := false }) hm.handle
      (by rw [State.onPort_portState]; rfl) hm.slot rfl
  rw [hp.run_claimed hh hf, runMicroSteps_later_next (fun _ => rfl) hfill hp.running (by decide),
    runMicroSteps_later_done (fun _ => rfl) hend hp.running (by decide)]
  simp [State.letGo, State.countedShort, State.claimed, hp.noSlot]

/-- A whole payload is copied, and the filled slot is published. -/
theorem Polled.run_ok (hl : h.expected ≤ d.length - 5) (hb : h.expected ≤ s.cfg.slotBytes.toNat) :
    runMicroSteps .seqIngest 4 (s.onPort (.busy .seqIngest 2 none) r) = some (State.finish
      { s with rxd := none, slots := s.slots.set k (slotOfBand .ready h (filledSlot h d sl).payload) }
      .ok (.band k h.frameId h.yStart)) := by
  have hm : MayFill (s.claimed k sl) k _ d := mayFill_claimed hf.slot hp.datagram
  have hfill : ComesTo .seqIngest ingestStep 4 (some ⟨.ok, .slot k⟩) (s.claimed k sl)
      (.next (some ⟨.ok, .fits h.expected (d.length - 5 - h.expected)⟩)
        ((s.claimed k sl).filledWith k h (filledSlot h d sl).payload)) :=
    fun r => ingestFill_ok (hm.onPort _ r) hh hl hb
  have hend : ComesTo .seqIngest ingestStep 5 (some ⟨.ok, .fits h.expected (d.length - 5 - h.expected)⟩)
      ((s.claimed k sl).filledWith k h (filledSlot h d sl).payload) (.done .ok (.band k h.frameId h.yStart)
        (((s.claimed k sl).filledWith k h (filledSlot h d sl).payload).letGo k
          (slotOfBand .ready h (filledSlot h d sl).payload))) :=
    fun r => ingestEnd_ok (s := State.onPort _ _ r) hm.handle (by rw [State.onPort_portState]; rfl)
      (List.getElem?_set_self (List.getElem?_eq_some_iff.1 hm.slot).1)
  rw [hp.run_claimed hh hf, runMicroSteps_later_next (fun _ => rfl) hfill hp.running (by decide),
    runMicroSteps_later_done (fun _ => rfl) hend hp.running (by decide)]
  simp [State.letGo, State.filledWith, State.claimed, hp.noSlot]

end

/-- Settles O42: the first micro-step by what the PRODUCER holds and by RXQ, the outcomes from the polled block on by
`Polled.run_malformed`, `Polled.run_exhausted`, `Polled.run_short` and `Polled.run_ok`, the copied bytes by
`read_filledSlot`. -/
theorem seqIngestOutcomes : Obligations.SeqIngestOutcomes := by
  intro s hrun hport hidle
  refine ⟨exec_seqIngest_badState hrun hport hidle, exec_seqIngest_empty hrun hport hidle, fun d rest hph hq => ?_⟩
  have hfirst := exec_seqIngest_polls hrun hport hidle hph hq
  have hrest : ∀ n, runMicroSteps .seqIngest (n + 1) s =
      runMicroSteps .seqIngest n ((s.polled d rest).onPort (.busy .seqIngest 2 none) s.lastResult) := fun n => by
    rw [runMicroSteps_next hfirst, State.setPortState_eq_onPort]
    rfl
  have hp : Polled (s.polled d rest) d := ⟨hrun, hph, rfl⟩
  refine ⟨hfirst, fun c hh => ?_, fun h hh hfull => ?_, fun h k sl hh hsl hst hleast hl => ?_,
    fun h k sl hh hsl hst hleast hl hb => ⟨_, read_filledSlot hl sl, ?_⟩⟩
  · rw [hrest, hp.run_malformed hh]; rfl
  · rw [hrest, hp.run_exhausted hh hfull]; rfl
  · rw [hrest, hp.run_short hh ⟨hsl, hst, hleast⟩ hl]; rfl
  · rw [hrest, hp.run_ok hh ⟨hsl, hst, hleast⟩ hl hb]; rfl

end Sys2Proof.Machine
end

section
/-! The sequences family (45_sequences), SEQ_CONSUME: past the selection its micro-steps do to the block what those of
XFA_DRAIN do (R147, R151). -/

namespace Sys2Proof.Machine

open Sys2Proof.Safety

/-! ## The selection (R147) -/

/-- The CONSUMER has selected slot `k`, which was `sl`. -/
def State.selected (s : State) (k : Nat) (sl : Slot) : State :=
  { s with slots := s.slots.set k { sl with state := .displaying }, ch := some k }

section
variable {s : State} (hrun : s.bstate = .run) (hport : s.issuer = .consumer) (hidle : s.portState = .idle)
include hrun hport hidle

theorem exec_seqConsume_first : exec .seqConsume s = settle .seqConsume 1 s (consumeSelect s) :=
  exec_composite_first (m := consumeStep) (fun _ => rfl) hrun hidle (by simp [allowedOn, hport]) rfl

theorem exec_seqConsume_badState (hch : s.ch ≠ none) : exec .seqConsume s = .next (s.faultEntry .badState) := by
  rw [exec_seqConsume_first hrun hport hidle, consumeSelect, poolSelect_badState hch]
  rfl

theorem exec_seqConsume_empty (hch : s.ch = none) (hno : ∀ k, s.slotState k ≠ some .ready) :
    exec .seqConsume s = .next (s.finish .empty .none) := by
  rw [exec_seqConsume_first hrun hport hidle, consumeSelect,
    poolSelect_empty hch (selectSlot_eq_none_iff.2 (State.forall_slotState_ne.1 hno))]
  rfl

theorem exec_seqConsume_selects {k : Nat} {sl : Slot} {m : SlotMeta} (hch : s.ch = none)
    (hsel : selectSlot s.cfg s.slots = some (some k)) (hsl : s.slots[k]? = some sl) (hm : sl.info = some m) :
    exec .seqConsume s = .next ((s.selected k sl).setPortState
      (.busy .seqConsume 2 (some ⟨.ok, .band k m.frameId m.srcY0⟩))) := by
  rw [exec_seqConsume_first hrun hport hidle, consumeSelect, poolSelect_takes hch hsel hsl hm]
  rfl

end

/-! ## The drain (R147; 44_transfer R140) -/

/-- While a transfer is in flight micro-step 2 holds (log entry 13). -/
theorem runMicroSteps_seqConsume_held {s : State} {sub : Option Status} (hrun : s.bstate = .run)
    (hx : s.xfBusy = true) :
    runMicroSteps .seqConsume 1 (s.setPortState (.busy .seqConsume 2 sub)) =
      some (s.setPortState (.busy .seqConsume 2 sub)) := by
  rw [State.setPortState_eq_onPort]
  exact runMicroSteps_later_hold (m := consumeStep) (fun _ => rfl) (fun _ => if_pos hx) hrun (by decide)

/-- "perform C CH" on the slot the CONSUMER holds. -/
theorem onHeldSlot_of_handle {s : State} {k : Nat} (hch : s.ch = some k) (body : Nat → Micro) :
    onHeldSlot s body = body k := by
  rw [onHeldSlot, hch]

section
variable {s t : State} {k : Nat} {sub : Option Status} {code : Code} {data : Data}

theorem comesTo_consumeWait (hx : s.xfBusy = false) :
    ComesTo .seqConsume consumeStep 2 sub s (.next sub s) := fun r => by
  have hx' : (s.onPort (.busy .seqConsume 2 sub) r).xfBusy = false := hx
  rw [consumeStep, hx', State.onPort_portState]
  rfl

theorem comesTo_consumeBand (hch : s.ch = some k) (h : sclBand k s = .done code data t) :
    ComesTo .seqConsume consumeStep 3 sub s (.next sub t) := fun r => by
  rw [consumeStep, onHeldSlot_of_handle (s := s.onPort _ r) hch, sclBand_onPort, h, State.onPort_portState]
  rfl

theorem comesTo_consumeRelease (hch : s.ch = some k) (h : poolRelease k s = .done code data t) :
    ComesTo .seqConsume consumeStep 4 sub s (.next sub t) := fun r => by
  rw [consumeStep, onHeldSlot_of_handle (s := s.onPort _ r) hch, poolRelease_onPort, h, State.onPort_portState]
  rfl

/-- The last micro-step reports the slot the first one selected. -/
theorem comesTo_consumeEnd {c : Code} {fid y : Half} (h : pushDrained k s = .done code data t) :
    ComesTo .seqConsume consumeStep 5 (some ⟨c, .band k fid y⟩) s (.done code data t) := fun r => by
  rw [consumeStep, consumeEnd, State.onPort_portState, ← h, ← pushDrained_onPort]
  · rfl
  all_goals decide

end

/-- Micro-steps 2 to 5 of SEQ_CONSUME do to the block what XFA_DRAIN of the selected slot does. -/
theorem runMicroSteps_seqConsume_eq_xfaDrain {s : State} {slot : BitVec 8} {sl : Slot} {m : SlotMeta} {c : Code}
    {fid y : Half} {r : Option Result} (hd : MayDrain s slot.toNat sl m) (hidle : s.portState = .idle) :
    runMicroSteps .seqConsume 4 (s.onPort (.busy .seqConsume 2 (some ⟨c, .band slot.toNat fid y⟩)) r) =
      runMicroSteps (.xfaDrain slot) 5 s := by
  obtain ⟨b, hb⟩ := hd.drains
  obtain ⟨hrunb, -, -⟩ := hb.keeps hd
  obtain ⟨_, hdraw⟩ := hb.band
  have hch : b.ch = some slot.toNat := by
    obtain ⟨_, _, _, _, rfl⟩ := hb.writes
    exact hd.holds.handle
  have hrunr : (b.released slot.toNat sl).bstate = .run := hrunb
  rw [runMicroSteps_xfaDrain hd hidle hb,
    runMicroSteps_later_next (fun _ => rfl) (comesTo_consumeWait hd.noTransfer) hd.running (by decide),
    runMicroSteps_later_next (fun _ => rfl) (comesTo_consumeBand hd.holds.handle hdraw) hd.running (by decide),
    runMicroSteps_later_next (fun _ => rfl) (comesTo_consumeRelease hch hb.release) hrunb (by decide),
    runMicroSteps_later_done (fun _ => rfl) (comesTo_consumeEnd hb.ends) hrunr (by decide)]

/-! ## The outcomes of SEQ_CONSUME (R147, R151) -/

/-- POOL_SELECT has answered slot `k`, which was `sl` with the metadata `m`. -/
def State.afterSelect (s : State) (k : Nat) (sl : Slot) (m : SlotMeta) : State :=
  (s.selected k sl).finish .ok (.band k m.frameId m.srcY0)

/-- POOL_SELECT leaves the block that the first micro-step of SEQ_CONSUME leaves. -/
theorem State.afterSelect_onPort (s : State) (k : Nat) (sl : Slot) (m : SlotMeta) (ps : PortState) (r : Option Result) :
    (s.afterSelect k sl m).onPort ps r = (s.selected k sl).onPort ps r := by
  simp [State.onPort, State.afterSelect, State.finish, State.conclude]

/-- Settles O43: the hold by `runMicroSteps_seqConsume_held`; the drain is XFA_DRAIN's
(`runMicroSteps_seqConsume_eq_xfaDrain`), so its outcome is what `xfaDrainAnswers` says after POOL_SELECT. -/
theorem seqConsumeOutcomes : Obligations.SeqConsumeOutcomes := by
  intro s hrun hport hidle
  refine ⟨exec_seqConsume_badState hrun hport hidle, exec_seqConsume_empty hrun hport hidle,
    fun k sl m hch hsel hsl hm => ?_⟩
  have hfirst := exec_seqConsume_selects hrun hport hidle hch hsel hsl hm
  refine ⟨hfirst, fun hx => ?_, fun hx hw hl hh hv hband hk => ?_⟩
  · rw [runMicroSteps_next hfirst]
    exact runMicroSteps_seqConsume_held (s := s.selected k sl) hrun hx
  obtain ⟨-, hN, -⟩ := (wellFormed_iff _).1 hw
  obtain ⟨slot, rfl⟩ : ∃ slot : BitVec 8, slot.toNat = k :=
    ⟨BitVec.ofNat 8 k, by rw [BitVec.toNat_ofNat]; omega⟩
  obtain ⟨hselects, -, -⟩ := poolSelectAnswers s hrun hport
  have hselect : exec .poolSelect s = .next (s.afterSelect slot.toNat sl m) :=
    hselects slot.toNat sl m hch hsel hsl hm
  have hidle' : (s.afterSelect slot.toNat sl m).portState = .idle := State.finish_portState _ _ _
  have hd : MayDrain (s.afterSelect slot.toNat sl m) slot.toNat { sl with state := .displaying } m :=
    ⟨hrun, hport, hk, ⟨rfl, List.getElem?_set_self (List.getElem?_eq_some_iff.1 hsl).1, rfl, hm⟩, hband, hl, hh, hv,
      hx⟩
  obtain ⟨-, -, hdrain⟩ := xfaDrainAnswers (s.afterSelect slot.toNat sl m) slot hrun hport hidle' hk
  obtain ⟨t, ht, hidlet, hresult, hcht, hslots, hok, hnot, -⟩ :=
    hdrain _ m hd.holds.handle hd.holds.slot rfl hm hband hw hl hh hv hx
  refine ⟨t, _, ?_, hselect, ?_, hresult, hidlet, hcht, ?_, hok, hnot⟩
  · rw [runMicroSteps_next hfirst, State.setPortState_eq_onPort, ← s.afterSelect_onPort,
      runMicroSteps_seqConsume_eq_xfaDrain hd hidle']
    exact ht
  · rw [BitVec.ofNat_toNat, BitVec.setWidth_eq]
    exact ht
  · rw [hslots]
    exact List.set_set ..

end Sys2Proof.Machine
end

section
/-! The exceptions family (60_exceptions): fault entry is all that a command returning a fault writes (R156), and a halted
block turns every command away but CSR_READ (R157, R160). -/

namespace Sys2Proof.Machine

/-! ## Fault entry (R156) -/

@[simp] theorem State.setPortState_lastResult (s : State) (ps : PortState) :
    (s.setPortState ps).lastResult = s.lastResult := rfl

theorem Effect.lastResult {i : Instr} {s u : State} (e : Effect i s u) : u.lastResult = s.lastResult := by
  rw [State.lastResult, State.lastResult, e.result, e.port.2]

/-- A command that returns a fault its port had not returned last has done fault entry and nothing else: one that ends
returns a status, and one that goes on or holds leaves the port's last result. -/
theorem exec_faulted {i : Instr} {s t : State} {c : Cause} (h : exec i s = .next t)
    (hbefore : s.lastResult ≠ some (.fault c)) (hafter : t.lastResult = some (.fault c)) : t = s.faultEntry c := by
  rcases exec_next h with ⟨u, code, data, -, rfl⟩ | ⟨u, ps, hu, rfl⟩ | ⟨d, rfl⟩
  · rw [State.finish_lastResult] at hafter
    cases hafter
  · rw [State.setPortState_lastResult, hu.lastResult] at hafter
    exact absurd hafter hbefore
  · rw [State.faultEntry_lastResult] at hafter
    cases hafter
    rfl

/-- Settles O13: the next state is `faultEntry` (`exec_faulted`), which writes the four fields named. -/
theorem faultEntryIsPrecise : Obligations.FaultEntryIsPrecise :=
  fun _ _ _ _ h hbefore hafter => exec_faulted h hbefore hafter

/-! ## The halted block (R157, R160) -/

theorem Instr.opcode_eq_csrRead_iff (i : Instr) : i.opcode = 0x60#8 ↔ ∃ a, i = .csrRead a := by
  cases i <;> simp [Instr.opcode]

/-- A halted block turns a command away unless its opcode is CSR_READ's. -/
theorem turnedAway_halted {i : Instr} {s : State} (h : s.bstate = .halted) (hi : i.opcode ≠ 0x60#8) :
    turnedAway i s = true := by
  simp [turnedAway, performedHalted, h, hi]

section
variable {s : State} {w0 : Word} {more : List Word}

/-- An idle port of a halted block takes the words of whatever is delivered whole, and answers HALTED, unless the opcode is
CSR_READ's: check 1 comes before the decoder's check 2. -/
theorem acceptCommand_of_halted (hq : s.cmdq.get s.issuer = w0 :: more) (hwhole : commandLength w0 ≤ more.length + 1)
    (hhalted : s.bstate = .halted) (hop : opcodeOf w0 ≠ 0x60#8) : acceptCommand exec s =
      .next (State.finish { s with cmdq := s.cmdq.set s.issuer ((w0 :: more).drop (commandLength w0)) } .halted .none) := by
  simp [acceptCommand, hq, Nat.not_lt.2 hwhole, hhalted, performedHalted, hop]

/-- An idle port takes the word of a CSR_READ that does not decode, and faults, whether the block is halted or not. -/
theorem acceptCommand_of_illFormedCsrRead {e : Reject} (hq : s.cmdq.get s.issuer = w0 :: more)
    (hwhole : commandLength w0 ≤ more.length + 1) (hop : opcodeOf w0 = 0x60#8) (h : decode (w0 :: more) = .error e) :
    acceptCommand exec s = .next
      (State.faultEntry { s with cmdq := s.cmdq.set s.issuer ((w0 :: more).drop (commandLength w0)) } .illegalCmd) := by
  simp [acceptCommand, hq, Nat.not_lt.2 hwhole, performedHalted, hop, h]

end

/-- The turn of an idle port is `acceptCommand`. -/
theorem step_of_idle_port {s : State} {p : Port} {turns : List Turn} (hw : s.cfg.wellFormed = true)
    (ht : s.turns = .port p :: turns) (hidle : s.port.get p = .idle) :
    step s = acceptCommand exec { s with turns := turns, issuer := p } := by
  rw [step_of_turn hw ht]
  simp only [moveAgent, portTurn, hidle, PortState.idle]

/-- Settles O10: a command is turned away at any micro-step (`exec_of_turnedAway`); an idle port looks at the opcode of what
is delivered before it decodes (`acceptCommand_of_halted`, `acceptCommand_of_illFormedCsrRead`). -/
theorem haltedBlockTurnsCommandsAway : Obligations.HaltedBlockTurnsCommandsAway := by
  refine ⟨fun i s hhalted hi => ?_, fun s p turns w0 more hw hhalted ht hidle hq hwhole => ?_⟩
  · have hop : i.opcode ≠ 0x60#8 := fun h => ((Instr.opcode_eq_csrRead_iff i).1 h).elim hi
    exact exec_of_turnedAway (turnedAway_halted hhalted hop)
  · rw [step_of_idle_port hw ht hidle]
    exact ⟨acceptCommand_of_halted hq hwhole hhalted,
      fun hop _ hd => ⟨acceptCommand_of_illFormedCsrRead hq hwhole hop hd, fun hcause => if_neg hcause⟩⟩

end Sys2Proof.Machine
end

section
/-! What reset leaves in the tables and the memories (10_state R47; 70_reset_and_hazards R173 to R177). -/

namespace Sys2Proof.Machine

section
variable (c : Config) (ok : Bool)

/-- With `ALLOC_OK` false LUT is not built (70_reset_and_hazards R177). -/
theorem resetWith_lut_get (x : Byte) :
    (State.resetWith c ok).lut[x.toNat]? = if ok then some (expandPixel c x) else none := by
  cases ok
  · rfl
  · exact builtLut_get c x

/-- With `ALLOC_OK` false HMAP is not built (70_reset_and_hazards R177). -/
theorem resetWith_hmap_get {i : Nat} (hi : i < 240) :
    (State.resetWith c ok).hmap[i]? = if ok then some (BitVec.ofNat 8 (map180 i)) else none := by
  cases ok
  · rfl
  · exact builtMap_get hi

theorem resetWith_obuf_get (b : Bool) : (State.resetWith c ok).obuf.get b = [] := by
  cases b <;> rfl

theorem resetWith_obufRows_get (b : Bool) : (State.resetWith c ok).obufRows.get b = 0#8 := by
  cases b <;> rfl

theorem resetWith_port_get (p : Port) : (State.resetWith c ok).port.get p = .idle := by
  cases p <;> rfl

variable {c ok}

theorem eq_reset_of_mem_resetWith_slots {sl : Slot} (h : sl ∈ (State.resetWith c ok).slots) : sl = .reset :=
  List.eq_of_mem_replicate h

end

/-- Settles O59: the registers are as `State.resetWith` writes them, a list with no cell reads as `undef` everywhere, and the
tables are `builtLut` and `builtMap` when `ALLOC_OK` is true and have no entry when it is false. -/
theorem resetValues : Obligations.ResetValues := by
  intro c ok
  have hslots : ∀ sl ∈ (State.resetWith c ok).slots,
      sl.state = .free ∧ sl.filled = false ∧ sl.info = none ∧ ∀ a, Sparse.read sl.payload a = none := by
    intro sl h
    rw [eq_reset_of_mem_resetWith_slots h]
    exact ⟨rfl, rfl, rfl, fun _ => rfl⟩
  have hobuf : ∀ b a, Sparse.read ((State.resetWith c ok).obuf.get b) a = none := by
    intro b a
    rw [resetWith_obuf_get]
    rfl
  exact ⟨rfl, rfl, rfl, resetWith_port_get c ok, rfl, rfl, rfl, rfl, rfl, rfl, rfl, rfl, rfl, rfl,
    List.length_replicate, hslots, resetWith_lut_get c ok, fun _ hi => ⟨resetWith_hmap_get c ok hi, rfl⟩,
    hobuf, resetWith_obufRows_get c ok, rfl, rfl, fun _ => rfl⟩

end Sys2Proof.Machine
end
